-- ==== Sys2Proof/Word.lean ====
section
/-! DEFINITION. Bytes, four-byte words and the 4x4 byte matrix (00_scope R9, R11, R13).

A word is an ordered sequence of four bytes and is never packed into an integer (R11). The State matrix is four
columns, each one word (R13, 20_memory R47): `m.get r c` is `S[r][c]`, byte `r` of column `c`. -/

namespace Sys2Proof

/-- R9: an 8-bit unsigned value; bit i is the coefficient of x^i. -/
abbrev Byte := BitVec 8

/-- R11: a word `(b0, b1, b2, b3)`. -/
@[ext] structure Word where
  b0 : Byte
  b1 : Byte
  b2 : Byte
  b3 : Byte
  deriving DecidableEq, Repr

/-- Byte `j` of a word, `w.bj` (R11). -/
def Word.byte (w : Word) : Fin 4 → Byte
  | 0 => w.b0
  | 1 => w.b1
  | 2 => w.b2
  | 3 => w.b3

/-- The word whose byte `j` is `f j`. -/
def Word.ofFn (f : Fin 4 → Byte) : Word := ⟨f 0, f 1, f 2, f 3⟩

/-- The word 00000000. -/
def Word.zero : Word := ⟨0, 0, 0, 0⟩

/-- R11: XOR of words is byte-wise. -/
def Word.xor (u v : Word) : Word := ⟨u.b0 ^^^ v.b0, u.b1 ^^^ v.b1, u.b2 ^^^ v.b2, u.b3 ^^^ v.b3⟩

/-- R13: the 4x4 byte matrix, as its four columns. -/
@[ext] structure Mat where
  c0 : Word
  c1 : Word
  c2 : Word
  c3 : Word
  deriving DecidableEq, Repr

/-- Column `c` of the matrix. -/
def Mat.col (m : Mat) : Fin 4 → Word
  | 0 => m.c0
  | 1 => m.c1
  | 2 => m.c2
  | 3 => m.c3

/-- `S[r][c]`: row `r`, column `c` (R13). -/
def Mat.get (m : Mat) (r c : Fin 4) : Byte := (m.col c).byte r

/-- The matrix whose entry at row `r`, column `c` is `f r c`. -/
def Mat.ofFn (f : Fin 4 → Fin 4 → Byte) : Mat :=
  ⟨Word.ofFn fun r => f r 0, Word.ofFn fun r => f r 1, Word.ofFn fun r => f r 2, Word.ofFn fun r => f r 3⟩

/-- The matrix of sixteen bytes 0x00. -/
def Mat.zero : Mat := ⟨Word.zero, Word.zero, Word.zero, Word.zero⟩

end Sys2Proof
end

