-- ==== Sys2Proof/Syntax.lean ====
section
/-! DEFINITION. The instructions: the 13 bus transactions of 30_encoding R63 and the 8 micro-operations of R61, one
constructor for each row of spec/opcode_table.json, with the operands of R62. -/

namespace Sys2Proof

/-- The two encoding formats: a 14-bit bus transaction word (R59) or an 8-bit micro-op word (R61). -/
inductive Format where
  | bus
  | uop
  deriving DecidableEq, Repr

inductive Instr where
  /-- KEYEXP, R104; `ksz` is the key-size code T[5:4], any of 0b00..0b11 (R60). -/
  | keyexp (ksz : BitVec 2)
  /-- ENCRYPT, R105. -/
  | encrypt
  /-- DECRYPT, R106. -/
  | decrypt
  /-- CMD_ILLEGAL, R107: a CTRL write whose byte `d` is no command. -/
  | cmdIllegal (d : Byte)
  /-- WR_KEYIN, R108. -/
  | wrKeyin (d : Byte)
  /-- WR_DIN, R109. -/
  | wrDin (d : Byte)
  /-- RD_STATUS, R110. -/
  | rdStatus
  /-- RD_ERRCODE, R111. -/
  | rdErrcode
  /-- RD_ERRINFO, R112. -/
  | rdErrinfo
  /-- RD_KCNT, R113. -/
  | rdKcnt
  /-- RD_DCNT, R114. -/
  | rdDcnt
  /-- RD_DOUT, R115; `j` is T[11:8]. -/
  | rdDout (j : BitVec 4)
  /-- ACCESS_IGNORED, R116: `w` is true for a write; `a` the address; `d` the data of a write, 0 for a read (R59). -/
  | accessIgnored (w : Bool) (a : BitVec 5) (d : Byte)
  /-- KXW, R83. -/
  | kxw
  /-- ARK, R92; the round number is 0..14 (R61, R62). -/
  | ark (rnd : Fin 15)
  /-- SB, R86. -/
  | sb
  /-- ISB, R87. -/
  | isb
  /-- SR, R88. -/
  | sr
  /-- ISR, R89. -/
  | isr
  /-- MC, R90. -/
  | mc
  /-- IMC, R91. -/
  | imc
  deriving DecidableEq, Repr

/-- The format of an instruction's word (R59, R61). -/
def Instr.format : Instr → Format
  | .keyexp _ => .bus
  | .encrypt => .bus
  | .decrypt => .bus
  | .cmdIllegal _ => .bus
  | .wrKeyin _ => .bus
  | .wrDin _ => .bus
  | .rdStatus => .bus
  | .rdErrcode => .bus
  | .rdErrinfo => .bus
  | .rdKcnt => .bus
  | .rdDcnt => .bus
  | .rdDout _ => .bus
  | .accessIgnored _ _ _ => .bus
  | .kxw => .uop
  | .ark _ => .uop
  | .sb => .uop
  | .isb => .uop
  | .sr => .uop
  | .isr => .uop
  | .mc => .uop
  | .imc => .uop

end Sys2Proof
end

