-- ==== Sys2Proof/WellFormed.lean ====
section
/-! DEFINITION. Which instruction terms stand for an encoding: the operands that the catch-all rows of 30_encoding R63
admit. Every other row admits every value of its operands (the round number's bound is in its type). -/

namespace Sys2Proof

/-- R60: the six bytes that are commands. -/
def commandBytes : List Byte := [0x01, 0x11, 0x21, 0x31, 0x02, 0x03]

/-- R36, R63: the addresses at which a read is ignored: 0x00, 0x04, 0x06 and 0x08..0x0F. -/
def readIgnored (a : BitVec 5) : Bool :=
  a == 0x00 || a == 0x04 || a == 0x06 || (8 ≤ a.toNat && a.toNat ≤ 15)

/-- R36, R63: the addresses at which a write is ignored: all but 0x00 (CTRL), 0x04 (KEYIN) and 0x06 (DIN). -/
def writeIgnored (a : BitVec 5) : Bool :=
  a != 0x00 && a != 0x04 && a != 0x06

/-- A term stands for an encoding: an illegal command's byte is no command byte (R63), and an ignored access is one
that R63 leaves to the last row, with data 0 when it is a read (R59, the canonical word of a read). -/
def Instr.wf : Instr → Bool
  | .keyexp _ => true
  | .encrypt => true
  | .decrypt => true
  | .cmdIllegal d => !(commandBytes.contains d)
  | .wrKeyin _ => true
  | .wrDin _ => true
  | .rdStatus => true
  | .rdErrcode => true
  | .rdErrinfo => true
  | .rdKcnt => true
  | .rdDcnt => true
  | .rdDout _ => true
  | .accessIgnored w a d => if w then writeIgnored a else readIgnored a && d == 0x00
  | .kxw => true
  | .ark _ => true
  | .sb => true
  | .isb => true
  | .sr => true
  | .isr => true
  | .mc => true
  | .imc => true

end Sys2Proof
end

