-- ==== Sys2Proof/Decode.lean ====
section
/-! DEFINITION. Decoding, total on every number given as a word, and the encoder (30_encoding R59 to R65).

A bus transaction word always decodes (R63). A micro-op word decodes by its KIND (R64); the unused kinds and ARK's
unused round number 15 are refused by name (R64, R65; assumption 6). -/

namespace Sys2Proof

/-- Why a word is no instruction. -/
inductive DecodeError where
  /-- The number has more bits than the format (14 for a transaction word, 8 for a micro-op word). -/
  | wordTooWide
  /-- R64: a micro-op KIND 0x0 or 0x9..0xF, which no micro-program holds. -/
  | unusedKind
  /-- R61, R62: an ARK whose RND is 15; round numbers are 0..14. -/
  | roundOutOfRange
  deriving DecidableEq, Repr

/-- R60: the command function, on the byte written to CTRL. -/
def decodeCmd (d : Byte) : Instr :=
  if d.extractLsb' 6 2 ≠ 0 ∨ d.getLsbD 3 = true then .cmdIllegal d
  else if d.extractLsb' 0 3 = 0b001 then .keyexp (d.extractLsb' 4 2)
  else if d.extractLsb' 0 3 = 0b010 ∧ d.extractLsb' 4 2 = 0 then .encrypt
  else if d.extractLsb' 0 3 = 0b011 ∧ d.extractLsb' 4 2 = 0 then .decrypt
  else .cmdIllegal d

/-- R59: the W field of a transaction word, T[13]. -/
def busW (t : BitVec 14) : Bool := t.getLsbD 13

/-- R59: the A field of a transaction word, T[12:8]. -/
def busA (t : BitVec 14) : BitVec 5 := t.extractLsb' 8 5

/-- R59: the D field of a transaction word, T[7:0]. -/
def busD (t : BitVec 14) : Byte := t.extractLsb' 0 8

/-- R63: a write transaction of byte `d` at address `a`. -/
def decodeWrite (a : BitVec 5) (d : Byte) : Instr :=
  if a = 0x00 then decodeCmd d
  else if a = 0x04 then .wrKeyin d
  else if a = 0x06 then .wrDin d
  else .accessIgnored true a d

/-- R63: a read transaction at address `a`. Its D field is ignored (R59), so an ignored read carries data 0. -/
def decodeRead (a : BitVec 5) : Instr :=
  if a = 0x01 then .rdStatus
  else if a = 0x02 then .rdErrcode
  else if a = 0x03 then .rdErrinfo
  else if a = 0x05 then .rdKcnt
  else if a = 0x07 then .rdDcnt
  else if a.getLsbD 4 = true then .rdDout (a.extractLsb' 0 4)
  else .accessIgnored false a 0x00

/-- R63: the row a bus transaction word decodes to; total on all 2^14 words. -/
def decodeBus (t : BitVec 14) : Instr :=
  if busW t then decodeWrite (busA t) (busD t) else decodeRead (busA t)

/-- R61: the KIND field of a micro-op word, U[7:4]. -/
def uopKind (u : Byte) : BitVec 4 := u.extractLsb' 4 4

/-- R61: the RND field of a micro-op word, U[3:0]. -/
def uopRnd (u : Byte) : BitVec 4 := u.extractLsb' 0 4

/-- R61, R64: the micro-operation of a micro-op word, by its KIND alone. -/
def decodeUop (u : Byte) : Except DecodeError Instr :=
  if uopKind u = 0x1 then .ok .kxw
  else if uopKind u = 0x2 then
    if h : (uopRnd u).toNat < 15 then .ok (.ark ⟨(uopRnd u).toNat, h⟩) else .error .roundOutOfRange
  else if uopKind u = 0x3 then .ok .sb
  else if uopKind u = 0x4 then .ok .isb
  else if uopKind u = 0x5 then .ok .sr
  else if uopKind u = 0x6 then .ok .isr
  else if uopKind u = 0x7 then .ok .mc
  else if uopKind u = 0x8 then .ok .imc
  else .error .unusedKind

/-- Decoding of any number read as a word of the given format. -/
def decode (f : Format) (w : Nat) : Except DecodeError Instr :=
  match f with
  | .bus => if w < 2 ^ 14 then .ok (decodeBus (BitVec.ofNat 14 w)) else .error .wordTooWide
  | .uop => if w < 2 ^ 8 then decodeUop (BitVec.ofNat 8 w) else .error .wordTooWide

/-- R59: the transaction word `(W << 13) | (A << 8) | D`. -/
def busWord (w : Bool) (a : BitVec 5) (d : Byte) : BitVec 14 := BitVec.ofBool w ++ a ++ d

/-- R27, R60: the command byte with the given key-size code and operation, its reserved bits 0. -/
def cmdByte (ksz : BitVec 2) (op : BitVec 3) : Byte := 0b00#2 ++ ksz ++ 0b0#1 ++ op

/-- R61: the micro-op word `KIND << 4 | RND`. -/
def uopWord (kind rnd : BitVec 4) : Byte := kind ++ rnd

/-- The canonical word of an instruction, from the encodings of R59 to R63 (D = 0 in the word of a read). -/
def encode : Instr → Nat
  | .keyexp ksz => (busWord true 0x00 (cmdByte ksz 0b001)).toNat
  | .encrypt => (busWord true 0x00 (cmdByte 0b00 0b010)).toNat
  | .decrypt => (busWord true 0x00 (cmdByte 0b00 0b011)).toNat
  | .cmdIllegal d => (busWord true 0x00 d).toNat
  | .wrKeyin d => (busWord true 0x04 d).toNat
  | .wrDin d => (busWord true 0x06 d).toNat
  | .rdStatus => (busWord false 0x01 0x00).toNat
  | .rdErrcode => (busWord false 0x02 0x00).toNat
  | .rdErrinfo => (busWord false 0x03 0x00).toNat
  | .rdKcnt => (busWord false 0x05 0x00).toNat
  | .rdDcnt => (busWord false 0x07 0x00).toNat
  | .rdDout j => (busWord false (0b1#1 ++ j) 0x00).toNat
  | .accessIgnored w a d => (busWord w a d).toNat
  | .kxw => (uopWord 0x1 0x0).toNat
  | .ark rnd => (uopWord 0x2 (BitVec.ofNat 4 rnd.val)).toNat
  | .sb => (uopWord 0x3 0x0).toNat
  | .isb => (uopWord 0x4 0x0).toNat
  | .sr => (uopWord 0x5 0x0).toNat
  | .isr => (uopWord 0x6 0x0).toNat
  | .mc => (uopWord 0x7 0x0).toNat
  | .imc => (uopWord 0x8 0x0).toNat

/-- A row of the opcode map (R61, R63): a word matches it when `word &&& mask = pattern`; lower priorities first. -/
structure Row where
  mask : Nat
  pattern : Nat
  priority : Nat
  deriving DecidableEq, Repr

/-- Whether a word matches a row. -/
def Row.hits (r : Row) (w : Nat) : Bool := w &&& r.mask == r.pattern

/-- The row of the opcode map that an instruction belongs to: R63's table, and R61's with the masks of the table. -/
def Instr.row : Instr → Row
  | .keyexp _ => ⟨0x3FCF, 0x2001, 1⟩
  | .encrypt => ⟨0x3FFF, 0x2002, 1⟩
  | .decrypt => ⟨0x3FFF, 0x2003, 1⟩
  | .cmdIllegal _ => ⟨0x3F00, 0x2000, 2⟩
  | .wrKeyin _ => ⟨0x3F00, 0x2400, 1⟩
  | .wrDin _ => ⟨0x3F00, 0x2600, 1⟩
  | .rdStatus => ⟨0x3F00, 0x0100, 1⟩
  | .rdErrcode => ⟨0x3F00, 0x0200, 1⟩
  | .rdErrinfo => ⟨0x3F00, 0x0300, 1⟩
  | .rdKcnt => ⟨0x3F00, 0x0500, 1⟩
  | .rdDcnt => ⟨0x3F00, 0x0700, 1⟩
  | .rdDout _ => ⟨0x3000, 0x1000, 1⟩
  | .accessIgnored _ _ _ => ⟨0x0000, 0x0000, 3⟩
  | .kxw => ⟨0xFF, 0x10, 1⟩
  | .ark _ => ⟨0xF0, 0x20, 1⟩
  | .sb => ⟨0xFF, 0x30, 1⟩
  | .isb => ⟨0xFF, 0x40, 1⟩
  | .sr => ⟨0xFF, 0x50, 1⟩
  | .isr => ⟨0xFF, 0x60, 1⟩
  | .mc => ⟨0xFF, 0x70, 1⟩
  | .imc => ⟨0xFF, 0x80, 1⟩

/-- R63: the thirteen rows of the bus opcode map, in the table's order. -/
def busRows : List Row :=
  [(Instr.keyexp 0).row, Instr.encrypt.row, Instr.decrypt.row, (Instr.cmdIllegal 0).row, (Instr.wrKeyin 0).row,
    (Instr.wrDin 0).row, Instr.rdStatus.row] ++
  [Instr.rdErrcode.row, Instr.rdErrinfo.row, Instr.rdKcnt.row, Instr.rdDcnt.row, (Instr.rdDout 0).row,
    (Instr.accessIgnored false 0 0).row]

/-- What the decoder reads from an opcode-table word of `nbits` bits (in whole bytes): 8 bits are a micro-op word,
16 bits hold a 14-bit transaction word, whose two upper bits must be 0 (assumption 7). -/
def decodeTableWord (nbits w : Nat) : Option Instr :=
  (decode (if nbits ≤ 8 then .uop else .bus) w).toOption

end Sys2Proof
end

