-- ==== Sys2Proof/Config.lean ====
section
/-! DEFINITION. What is fixed for the machine: the three key sizes (00_scope R2, R6). Their constants Nk and Nr are in
Machine/Operands.lean, and Nb is 4 always (R6).

`T_UOP` (cycles per engine step, R8) has no counterpart: the order of host and engine steps is data of the state
(assumption 1). `AES_BASE` (R8, 20_memory R50) is an argument of `Machine.systemAddress`. No value of this hardware
is left undefined by its spec, so there is no opaque free value here. -/

namespace Sys2Proof

/-- R2, R6: the three key sizes, in bits. -/
inductive KeySize where
  | k128
  | k192
  | k256
  deriving DecidableEq, Repr

end Sys2Proof
end

