-- ==== Sys2Proof/Machine/State.lean ====
section
/-! DEFINITION. The state: every element of the state record of 10_state R43, the read-data port and the observation of
a run (45_host_interface R102, R119), and the model's own field `sched`, which says who moves next (assumption 1).
There is no memory behind this hardware (20_memory R44). -/

namespace Sys2Proof.Machine

/-- R18: what the engine is doing. -/
inductive Phase where
  | idle
  | keyexp
  | enc
  | dec
  deriving DecidableEq, Repr

/-- R102: the values of the input ports at one rising clock edge. -/
structure Pins where
  rst : Bool
  wrEn : Bool
  rdEn : Bool
  addr : BitVec 5
  wdata : Byte
  deriving DecidableEq, Repr

/-- Whose step comes next (R15, R53, R143): a clock edge with the given port inputs, or one engine step. -/
inductive Turn where
  | edge (p : Pins)
  | engine
  deriving DecidableEq, Repr

/-- R43, field by field in the table's order; then the port and the observation; then the model's own field. -/
structure State where
  /-- R18. -/
  phase : Phase
  /-- R19. -/
  upc : BitVec 6
  /-- R20. -/
  ki : BitVec 6
  /-- R25. -/
  ksz : BitVec 2
  /-- R22. -/
  keyReady : Bool
  /-- R23. -/
  outValid : Bool
  /-- R29. -/
  errcode : Byte
  /-- R30. -/
  errinfo : Byte
  /-- R37. -/
  kbuf : Vector Byte 32
  /-- R37. -/
  kcnt : BitVec 6
  /-- R38. -/
  dbuf : Vector Byte 16
  /-- R38. -/
  dcnt : BitVec 5
  /-- R39. -/
  W : Vector Word 60
  /-- R17. -/
  S : Mat
  /-- R40. -/
  out : Vector Byte 16
  /-- R102: the read-data port at the latest clock edge; `none` when rd_en was low, so that it is not valid. -/
  rdata : Option Byte
  /-- R119: the values the run's reads have returned, oldest first. -/
  reads : List Byte
  /-- The model's own field: the turns to come, in order (assumption 1). -/
  sched : List Turn
  deriving DecidableEq, Repr

/-- The model's faults. The hardware has none (R103, R120); each of these is raised only in a state that no run from
reset reaches, and stopping there is safe (assumption 5). -/
inductive Fault where
  /-- Raised by every micro-operation when KSZ = 0b11, which has no Nk and no Nr (R25: KSZ never holds it). Safe. -/
  | noKeySize
  /-- Raised by KXW when KI is not in Nk..4(Nr+1)-1, the range of R83. Safe. -/
  | scheduleIndex (ki : BitVec 6)
  /-- Raised by fetching a micro-op when UPC is at or past 4 Nr, where the micro-program has none (R94, R95). Safe. -/
  | microProgramEnd (upc : BitVec 6)
  deriving DecidableEq, Repr

/-- The model's refusals. -/
inductive Refusal where
  /-- Raised by an arm of `exec` for an instruction without a meaning. Safe. No arm raises it. -/
  | notModelled (mnemonic : String)
  /-- Raised by an engine turn on a fetched byte that is no micro-op word (R64); no micro-program holds one. Safe. -/
  | unusedMicroOp (word : Byte)
  deriving DecidableEq, Repr

/-- R43, R143: every element at the reset value of the table. The port shows nothing, no read has returned a value and
no turn is scheduled (assumptions 1 and 2). -/
def State.reset : State where
  phase := .idle
  upc := 0
  ki := 0
  ksz := 0b00
  keyReady := false
  outValid := false
  errcode := 0x00
  errinfo := 0x00
  kbuf := Vector.replicate 32 0x00
  kcnt := 0
  dbuf := Vector.replicate 16 0x00
  dcnt := 0
  W := Vector.replicate 60 Word.zero
  S := Mat.zero
  out := Vector.replicate 16 0x00
  rdata := none
  reads := []
  sched := []

end Sys2Proof.Machine
end

