-- ==== Sys2Proof/Machine/Operands.lean ====
section
/-! DEFINITION. Operand forms: the key-size code and its constants (00_scope R6, 10_state R25), the error codes
(60_exceptions R124), the register addresses (10_state R26), the counters read as bytes, the byte and word reads of
the internal arrays (00_scope R14), and the transaction word the bus ports carry (30_encoding R59, 45 R102). -/

namespace Sys2Proof

/-- R6: Nk, the key length in words. -/
def KeySize.nk : KeySize → Nat
  | .k128 => 4
  | .k192 => 6
  | .k256 => 8

/-- R6: Nr, the round count. -/
def KeySize.nr : KeySize → Nat
  | .k128 => 10
  | .k192 => 12
  | .k256 => 14

/-- R25: the key size of a 2-bit code; 0b11 has none. -/
def KeySize.ofCode (c : BitVec 2) : Option KeySize :=
  if c = 0b00 then some .k128
  else if c = 0b01 then some .k192
  else if c = 0b10 then some .k256
  else none

/-- R6: the number of schedule words, Nb (Nr + 1). -/
def KeySize.scheduleLen (ks : KeySize) : Nat := 4 * (ks.nr + 1)

/-- R94, R95: the number of micro-ops of a micro-program, 4 Nr. -/
def KeySize.programLen (ks : KeySize) : Nat := 4 * ks.nr

namespace Machine

/-- R124: the outcome codes. -/
inductive ErrCode where
  | ok
  | busy
  | illegalCmd
  | badKeysize
  | keyLen
  | blockLen
  | noKey
  deriving DecidableEq, Repr

/-- R124: the byte ERRCODE holds for each outcome. -/
def ErrCode.byte : ErrCode → Byte
  | .ok => 0x00
  | .busy => 0x01
  | .illegalCmd => 0x02
  | .badKeysize => 0x03
  | .keyLen => 0x04
  | .blockLen => 0x05
  | .noKey => 0x06

/-- R50: the system bus address of register address `a` when register 0x00 is at `aesBase`. -/
def systemAddress (aesBase : Nat) (a : BitVec 5) : Nat := aesBase + a.toNat

/-- R32, R113: KCNT as a byte. -/
def kcntByte (s : State) : Byte := s.kcnt.setWidth 8

/-- R34, R114: DCNT as a byte. -/
def dcntByte (s : State) : Byte := s.dcnt.setWidth 8

/-- Element `i` of a byte array; 0x00 past its end, where no rule reads (assumption 9). -/
def byteAt {n : Nat} (v : Vector Byte n) (i : Nat) : Byte := if h : i < n then v[i] else 0x00

/-- Element `i` of the key-schedule store; the zero word past its end, where no rule reads (assumption 9). -/
def wordAt (w : Vector Word 60) (i : Nat) : Word := if h : i < 60 then w[i] else Word.zero

/-- Write of element `i` of the key-schedule store. -/
def setWordAt (w : Vector Word 60) (i : Nat) (v : Word) : Vector Word 60 := w.setIfInBounds i v

/-- R46: word `i` of a key, bytes K[4i..4i+3] in order. -/
def keyWord (k : Vector Byte 32) (i : Nat) : Word :=
  ⟨byteAt k (4 * i), byteAt k (4 * i + 1), byteAt k (4 * i + 2), byteAt k (4 * i + 3)⟩

/-- R47: a block in the State layout, `S[r][c] = B[r + 4c]`. -/
def loadMat (b : Vector Byte 16) : Mat := Mat.ofFn fun r c => byteAt b (r.val + 4 * c.val)

/-- R47: the State in the block layout, `OUT[r + 4c] = S[r][c]`: byte `i` is row `i mod 4`, column `i div 4`. -/
def storeMat (m : Mat) : Vector Byte 16 :=
  Vector.ofFn fun i => m.get ⟨i.val % 4, by omega⟩ ⟨i.val / 4, by omega⟩

/-- R59, R102: the transaction the ports carry at an edge, as a word: W is wr_en, A is addr, D is wdata. With both
strobes high the write is performed only; with neither there is no transaction. -/
def Pins.transaction (p : Pins) : Option (BitVec 14) :=
  if p.wrEn then some (busWord true p.addr p.wdata)
  else if p.rdEn then some (busWord false p.addr p.wdata)
  else none

/-- The ports of a clock edge that carries a given transaction word and no reset. -/
def Pins.ofWord (t : BitVec 14) : Pins where
  rst := false
  wrEn := busW t
  rdEn := !busW t
  addr := busA t
  wdata := busD t

end Machine

end Sys2Proof
end

