-- ==== Sys2Proof/Machine/Flags.lean ====
section
/-! DEFINITION. The flags that are not storage (10_state R21, R24) and the STATUS byte (R28). -/

namespace Sys2Proof.Machine

/-- R21: BUSY = (PHASE is not IDLE). -/
def busy (s : State) : Bool := s.phase != .idle

/-- R24: ERR = (ERRCODE is not 0x00). -/
def err (s : State) : Bool := s.errcode != 0x00

/-- A flag as the lowest bit of a byte. -/
def flagByte (b : Bool) : Byte := if b then 0x01 else 0x00

/-- R28: `STATUS = (KSZ << 4) | (ERR << 3) | (OUT_VALID << 2) | (KEY_READY << 1) | BUSY`. -/
def statusByte (s : State) : Byte :=
  (s.ksz.setWidth 8 <<< 4) ||| (flagByte (err s) <<< 3) ||| (flagByte s.outValid <<< 2)
    ||| (flagByte s.keyReady <<< 1) ||| flagByte (busy s)

end Sys2Proof.Machine
end

