-- ==== Sys2Proof/Machine/Gf.lean ====
section
/-! DEFINITION. The GF(2^8) multiplier (40_gf_arith R69 to R71). Addition of the field is XOR. -/

namespace Sys2Proof.Machine

/-- R70: multiplication by x modulo 0x11B. -/
def xtime (p : Byte) : Byte := (p <<< 1) ^^^ (if p.getLsbD 7 then 0x1B else 0x00)

/-- R71: `n` rounds of the double-and-add loop from bit `k` on, with `t` = xtime applied k times to a. -/
def gmulLoop (b : Byte) : Nat → Nat → Byte → Byte → Byte
  | 0, _, _, acc => acc
  | n + 1, k, t, acc => gmulLoop b n (k + 1) (xtime t) (if b.getLsbD k then acc ^^^ t else acc)

/-- R71: the product of two bytes modulo 0x11B. -/
def gmul (a b : Byte) : Byte := gmulLoop b 8 0 a 0x00

/-- R69, R71: the product of two polynomials over GF(2) before reduction: the XOR of `a` shifted left by each set bit
position of `b`. Statements compare `gmul` with it. -/
def polyMul (a : BitVec 16) (b : Byte) : BitVec 16 :=
  (List.range 8).foldl (fun acc k => if b.getLsbD k then acc ^^^ (a <<< k) else acc) 0

end Sys2Proof.Machine
end

