-- ==== Sys2Proof/Machine/Ops.lean ====
section
/-! DEFINITION. The shared operations on the state: reporting an outcome (60_exceptions R121, the only exceptional
entry this hardware has, with nothing that returns from it: R133, R134), consuming a buffer (R122), pushing a byte,
returning a byte to the host, starting and ending a command, and reset. All reads are of the state before the step
and all writes of a step take effect together (00_scope R14). -/

namespace Sys2Proof.Machine

/-- R121: `raise ConfigError(code, info)`: the outcome is written and nothing starts. With `ErrCode.ok` and 0x00 it is
also the acceptance's write of ERRCODE and ERRINFO (R123). -/
def report (code : ErrCode) (info : Byte) (s : State) : State :=
  { s with errcode := code.byte, errinfo := info }

/-- R104, R122: what every KEYEXP past the BUSY check does: the key buffer is emptied and KEY_READY cleared. -/
def consumeKey (s : State) : State :=
  { s with keyReady := false, kbuf := Vector.replicate 32 0x00, kcnt := 0 }

/-- R105, R122: what every ENCRYPT or DECRYPT past the BUSY check does: the block buffer is emptied, OUT cleared. -/
def consumeBlock (s : State) : State :=
  { s with out := Vector.replicate 16 0x00, outValid := false, dbuf := Vector.replicate 16 0x00, dcnt := 0 }

/-- R108: push a byte into the key buffer; the counter saturates at 63 and bytes past the 32nd are dropped. -/
def pushKey (d : Byte) (s : State) : State :=
  { s with
    kbuf := if s.kcnt.toNat < 32 then s.kbuf.setIfInBounds s.kcnt.toNat d else s.kbuf
    kcnt := if s.kcnt.toNat < 63 then s.kcnt + 1 else s.kcnt }

/-- R109: push a byte into the block buffer; the counter saturates at 31 and bytes past the 16th are dropped. -/
def pushBlock (d : Byte) (s : State) : State :=
  { s with
    dbuf := if s.dcnt.toNat < 16 then s.dbuf.setIfInBounds s.dcnt.toNat d else s.dbuf
    dcnt := if s.dcnt.toNat < 31 then s.dcnt + 1 else s.dcnt }

/-- R103: a read returns a byte to the host, on the port (R102) and to the run's observation (R119). -/
def respond (d : Byte) (s : State) : State :=
  { s with rdata := some d, reads := s.reads ++ [d] }

/-- R104: the schedule store with words 0..nk-1 taken from the key buffer (R46) and the rest as they were. -/
def loadKeyWords (nk : Nat) (k : Vector Byte 32) (w : Vector Word 60) : Vector Word 60 :=
  Vector.ofFn fun i => if i.val < nk then keyWord k i.val else w[i]

/-- R104, after the checks: load the key columns, set KSZ and KI, and start the expansion. -/
def startExpansion (ksz : BitVec 2) (nk : Nat) (s : State) : State :=
  { s with ksz := ksz, W := loadKeyWords nk s.kbuf s.W, ki := BitVec.ofNat 6 nk, phase := .keyexp }

/-- R105, R106, after the checks: load the block into S (R47) and start the micro-program at its first micro-op. -/
def startCipher (phase : Phase) (s : State) : State :=
  { s with S := loadMat s.dbuf, upc := 0, phase := phase }

/-- R83: the KXW write of word KI, with the advance of KI. -/
def storeScheduleWord (v : Word) (s : State) : State :=
  { s with W := setWordAt s.W s.ki.toNat v, ki := s.ki + 1 }

/-- R84: KEYEXP completion. -/
def completeExpansion (s : State) : State :=
  { s with phase := .idle, keyReady := true }

/-- R96: a micro-op that is not the last: S takes the new value and UPC advances. -/
def advance (m : Mat) (s : State) : State :=
  { s with S := m, upc := s.upc + 1 }

/-- R97: completion with final State `m`: OUT is written whole, S cleared, the engine idle. UPC has advanced (R96). -/
def completeCipher (m : Mat) (s : State) : State :=
  { s with out := storeMat m, outValid := true, phase := .idle, S := Mat.zero, upc := s.upc + 1 }

/-- R96: the engine step of ENC and DEC once its micro-op has given the new State `m`: it completes with the last
micro-op of the micro-program, else goes on. KSZ = 0b11 has no Nr (assumption 5). -/
def engineStep (m : Mat) (s : State) : Host.Outcome State Fault Refusal :=
  match KeySize.ofCode s.ksz with
  | none => .fault .noKeySize
  | some ks => .next (if s.upc.toNat + 1 = ks.programLen then completeCipher m s else advance m s)

/-- R104, R125, R127, R128, R131: a CTRL write of KEYEXP, its checks in order of precedence. -/
def commandKeyexp (ksz : BitVec 2) (s : State) : State :=
  if busy s then report .busy 0x00 s
  else match KeySize.ofCode ksz with
    | none => report .badKeysize 0x00 (consumeKey s)
    | some ks =>
      if s.kcnt.toNat ≠ 4 * ks.nk then report .keyLen (kcntByte s) (consumeKey s)
      else report .ok 0x00 (consumeKey (startExpansion ksz ks.nk s))

/-- R105, R106, R125, R129, R130, R131: a CTRL write of ENCRYPT or DECRYPT, which differ in the phase they start. -/
def commandCipher (phase : Phase) (s : State) : State :=
  if busy s then report .busy 0x00 s
  else if s.keyReady = false then report .noKey 0x00 (consumeBlock s)
  else if s.dcnt.toNat ≠ 16 then report .blockLen (dcntByte s) (consumeBlock s)
  else report .ok 0x00 (consumeBlock (startCipher phase s))

/-- R107: a CTRL write whose byte is no command. -/
def commandIllegal (s : State) : State :=
  if busy s then report .busy 0x00 s else report .illegalCmd 0x00 s

/-- R143: every element of the state record takes its reset value, the model's own field and the observation are kept
(assumption 3), and the port shows what this edge gave it. -/
def resetStep (s : State) : State :=
  { State.reset with rdata := s.rdata, reads := s.reads, sched := s.sched }

end Sys2Proof.Machine
end

