-- ==== Sys2Proof/Machine/KeySchedule.lean ====
section
/-! DEFINITION. The key schedule (42_key_schedule R80 to R84): the word functions, the word a step computes, the
micro-op KXW, and the expansion as a pure function (R82). -/

namespace Sys2Proof.Machine

/-- R80. -/
def rotWord (w : Word) : Word := ⟨w.b1, w.b2, w.b3, w.b0⟩

/-- R81: always the forward S-box. -/
def subWord (w : Word) : Word := ⟨sbox w.b0, sbox w.b1, sbox w.b2, sbox w.b3⟩

/-- R82, R83: `temp` for word `i`, from the word before it. -/
def scheduleTemp (nk i : Nat) (prev : Word) : Word :=
  if i % nk = 0 then (subWord (rotWord prev)).xor (rcon (i / nk))
  else if 6 < nk ∧ i % nk = 4 then subWord prev
  else prev

/-- R82, R83: word `i`, from the word before it and the word nk before it. -/
def scheduleWord (nk i : Nat) (prev back : Word) : Word := back.xor (scheduleTemp nk i prev)

/-- R83: the word at index KI, for key size `ks`. -/
def kxwWord (ks : KeySize) (s : State) : Word :=
  scheduleWord ks.nk s.ki.toNat (wordAt s.W (s.ki.toNat - 1)) (wordAt s.W (s.ki.toNat - ks.nk))

/-- KXW, R83 with R84: the word at index KI; the step that writes the last word also completes. -/
def execKxw (s : State) : Host.Outcome State Fault Refusal :=
  match KeySize.ofCode s.ksz with
  | none => .fault .noKeySize
  | some ks =>
    if ks.nk ≤ s.ki.toNat ∧ s.ki.toNat < ks.scheduleLen then
      let t := storeScheduleWord (kxwWord ks s) s
      .next (if s.ki.toNat + 1 = ks.scheduleLen then completeExpansion t else t)
    else .fault (.scheduleIndex s.ki)

/-- R82, the loop from index `l.length` on: `n` more words appended to the words `l` computed so far. -/
def expandLoop (nk : Nat) : Nat → List Word → List Word
  | 0, l => l
  | n + 1, l =>
    expandLoop nk n
      (l ++ [scheduleWord nk l.length (l.getD (l.length - 1) Word.zero) (l.getD (l.length - nk) Word.zero)])

/-- R82: `expand(K)`, the Nb (Nr + 1) words of the schedule of a key, whose 4 Nk bytes are the first of `k`. -/
def expand (ks : KeySize) (k : Vector Byte 32) : List Word :=
  expandLoop ks.nk (ks.scheduleLen - ks.nk) ((List.range ks.nk).map (keyWord k))

end Sys2Proof.Machine
end

