-- ==== Sys2Proof/Machine/RoundOps.lean ====
section
/-! DEFINITION. The round transformations (43_round_transforms R86 to R92), each as a function of the State matrix and
as the engine step that applies it (44_cipher_engine R96). An engine turn runs one of these only while PHASE is ENC or
DEC (Machine/Turns.lean; assumption 8). -/

namespace Sys2Proof.Machine

/-- R86. -/
def subBytes (m : Mat) : Mat := Mat.ofFn fun r c => sbox (m.get r c)

/-- R87. -/
def invSubBytes (m : Mat) : Mat := Mat.ofFn fun r c => isbox (m.get r c)

/-- R88: `S'[r][c] = S[r][(c + r) mod 4]`; addition of column numbers is modulo 4. -/
def shiftRows (m : Mat) : Mat := Mat.ofFn fun r c => m.get r (c + r)

/-- R89: `S'[r][c] = S[r][(c - r) mod 4]`. -/
def invShiftRows (m : Mat) : Mat := Mat.ofFn fun r c => m.get r (c - r)

/-- R90: row `r` of the forward matrix MF. -/
def mixRow : Fin 4 → Word
  | 0 => ⟨0x02, 0x03, 0x01, 0x01⟩
  | 1 => ⟨0x01, 0x02, 0x03, 0x01⟩
  | 2 => ⟨0x01, 0x01, 0x02, 0x03⟩
  | 3 => ⟨0x03, 0x01, 0x01, 0x02⟩

/-- R91: row `r` of the inverse matrix MI. -/
def invMixRow : Fin 4 → Word
  | 0 => ⟨0x0e, 0x0b, 0x0d, 0x09⟩
  | 1 => ⟨0x09, 0x0e, 0x0b, 0x0d⟩
  | 2 => ⟨0x0d, 0x09, 0x0e, 0x0b⟩
  | 3 => ⟨0x0b, 0x0d, 0x09, 0x0e⟩

/-- R90: the product of one matrix row and one column. -/
def dot (row col : Word) : Byte :=
  gmul row.b0 col.b0 ^^^ gmul row.b1 col.b1 ^^^ gmul row.b2 col.b2 ^^^ gmul row.b3 col.b3

/-- R90. -/
def mixColumns (m : Mat) : Mat := Mat.ofFn fun r c => dot (mixRow r) (m.col c)

/-- R91. -/
def invMixColumns (m : Mat) : Mat := Mat.ofFn fun r c => dot (invMixRow r) (m.col c)

/-- R92: `S[r][c] ^ W[4 rnd + c].b[r]`. -/
def addRoundKey (w : Vector Word 60) (rnd : Nat) (m : Mat) : Mat :=
  Mat.ofFn fun r c => m.get r c ^^^ (wordAt w (4 * rnd + c.val)).byte r

/-- SB, R86. -/
def execSb (s : State) : Host.Outcome State Fault Refusal := engineStep (subBytes s.S) s

/-- ISB, R87. -/
def execIsb (s : State) : Host.Outcome State Fault Refusal := engineStep (invSubBytes s.S) s

/-- SR, R88. -/
def execSr (s : State) : Host.Outcome State Fault Refusal := engineStep (shiftRows s.S) s

/-- ISR, R89. -/
def execIsr (s : State) : Host.Outcome State Fault Refusal := engineStep (invShiftRows s.S) s

/-- MC, R90. -/
def execMc (s : State) : Host.Outcome State Fault Refusal := engineStep (mixColumns s.S) s

/-- IMC, R91. -/
def execImc (s : State) : Host.Outcome State Fault Refusal := engineStep (invMixColumns s.S) s

/-- ARK(rnd), R92. -/
def execArk (rnd : Fin 15) (s : State) : Host.Outcome State Fault Refusal :=
  engineStep (addRoundKey s.W rnd.val s.S) s

end Sys2Proof.Machine
end

