-- ==== Sys2Proof/Machine/Cipher.lean ====
section
/-! DEFINITION. The micro-programs (44_cipher_engine R94, R95), the fetch of a micro-op word (R83, R96), and the pure
functions the engine computes (R99, R100). -/

namespace Sys2Proof.Machine

/-- R61: the word of ARK for a round. -/
def arkWord (rnd : Nat) : Byte := uopWord 0x2 (BitVec.ofNat 4 rnd)

/-- R94: the four words of one full encryption round: SB, SR, MC, ARK(round). -/
def encRound (rnd : Nat) : List Byte := [0x30, 0x50, 0x70, arkWord rnd]

/-- R94: `UPROG(ENC, Nr)`. -/
def uprogEnc (nr : Nat) : List Byte :=
  [arkWord 0] ++ (List.range (nr - 1)).flatMap (fun k => encRound (k + 1)) ++ [0x30, 0x50, arkWord nr]

/-- R95: the four words of one full decryption round: ARK(round), IMC, ISR, ISB. -/
def decRound (rnd : Nat) : List Byte := [arkWord rnd, 0x80, 0x60, 0x40]

/-- R95: `UPROG(DEC, Nr)`; the rounds run from Nr - 1 down to 1. -/
def uprogDec (nr : Nat) : List Byte :=
  [arkWord nr, 0x60, 0x40] ++ (List.range (nr - 1)).flatMap (fun k => decRound (nr - 1 - k)) ++ [arkWord 0]

/-- The micro-program of a phase: R94 for ENC, R95 for DEC; KEYEXP has the one micro-op KXW and IDLE has none. -/
def uprog (phase : Phase) (nr : Nat) : List Byte :=
  match phase with
  | .idle => []
  | .keyexp => []
  | .enc => uprogEnc nr
  | .dec => uprogDec nr

/-- R83, R96: the micro-op word of the engine's one enabled step; `none` while PHASE = IDLE. -/
def fetchMicroOp (s : State) : Option (Except Fault Byte) :=
  match s.phase with
  | .idle => none
  | .keyexp => some (.ok 0x10)
  | .enc =>
    match KeySize.ofCode s.ksz with
    | none => some (.error .noKeySize)
    | some ks =>
      match (uprogEnc ks.nr)[s.upc.toNat]? with
      | none => some (.error (.microProgramEnd s.upc))
      | some u => some (.ok u)
  | .dec =>
    match KeySize.ofCode s.ksz with
    | none => some (.error .noKeySize)
    | some ks =>
      match (uprogDec ks.nr)[s.upc.toNat]? with
      | none => some (.error (.microProgramEnd s.upc))
      | some u => some (.ok u)

/-- R96, `apply(u, S, W)`: the effect of a round micro-operation on the State matrix. KXW and the bus transactions
have none. -/
def applyMicroOp (w : Vector Word 60) (m : Mat) : Instr → Mat
  | .keyexp _ => m
  | .encrypt => m
  | .decrypt => m
  | .cmdIllegal _ => m
  | .wrKeyin _ => m
  | .wrDin _ => m
  | .rdStatus => m
  | .rdErrcode => m
  | .rdErrinfo => m
  | .rdKcnt => m
  | .rdDcnt => m
  | .rdDout _ => m
  | .accessIgnored _ _ _ => m
  | .kxw => m
  | .ark rnd => addRoundKey w rnd.val m
  | .sb => subBytes m
  | .isb => invSubBytes m
  | .sr => shiftRows m
  | .isr => invShiftRows m
  | .mc => mixColumns m
  | .imc => invMixColumns m

/-- R99: rounds 1..Nr-1 of the encryption, then the final round without MixColumns, then serialization. -/
def cipher (w : Vector Word 60) (nr : Nat) (b : Vector Byte 16) : Vector Byte 16 :=
  let m0 := addRoundKey w 0 (loadMat b)
  let m1 := (List.range (nr - 1)).foldl
    (fun m k => addRoundKey w (k + 1) (mixColumns (shiftRows (subBytes m)))) m0
  storeMat (addRoundKey w nr (shiftRows (subBytes m1)))

/-- R100: the decryption, its rounds from Nr - 1 down to 1. -/
def invCipher (w : Vector Word 60) (nr : Nat) (b : Vector Byte 16) : Vector Byte 16 :=
  let m0 := invSubBytes (invShiftRows (addRoundKey w nr (loadMat b)))
  let m1 := (List.range (nr - 1)).foldl
    (fun m k => invSubBytes (invShiftRows (invMixColumns (addRoundKey w (nr - 1 - k) m)))) m0
  storeMat (addRoundKey w 0 m1)

end Sys2Proof.Machine
end

