-- ==== Sys2Proof/Machine/Commands.lean ====
section
/-! DEFINITION. The commands: writes to CTRL (45_host_interface R104 to R107). -/

namespace Sys2Proof.Machine

/-- KEYEXP, R104. -/
def execKeyexp (ksz : BitVec 2) (s : State) : Host.Outcome State Fault Refusal := .next (commandKeyexp ksz s)

/-- ENCRYPT, R105. -/
def execEncrypt (s : State) : Host.Outcome State Fault Refusal := .next (commandCipher .enc s)

/-- DECRYPT, R106. -/
def execDecrypt (s : State) : Host.Outcome State Fault Refusal := .next (commandCipher .dec s)

/-- CMD_ILLEGAL, R107; the byte is not examined further. -/
def execCmdIllegal (_d : Byte) (s : State) : Host.Outcome State Fault Refusal := .next (commandIllegal s)

end Sys2Proof.Machine
end

