-- ==== Sys2Proof/Machine/Transfers.lean ====
section
/-! DEFINITION. The data pushes and the reads (45_host_interface R108 to R116). -/

namespace Sys2Proof.Machine

/-- WR_KEYIN, R108. -/
def execWrKeyin (d : Byte) (s : State) : Host.Outcome State Fault Refusal := .next (pushKey d s)

/-- WR_DIN, R109. -/
def execWrDin (d : Byte) (s : State) : Host.Outcome State Fault Refusal := .next (pushBlock d s)

/-- RD_STATUS, R110. -/
def execRdStatus (s : State) : Host.Outcome State Fault Refusal := .next (respond (statusByte s) s)

/-- RD_ERRCODE, R111. -/
def execRdErrcode (s : State) : Host.Outcome State Fault Refusal := .next (respond s.errcode s)

/-- RD_ERRINFO, R112. -/
def execRdErrinfo (s : State) : Host.Outcome State Fault Refusal := .next (respond s.errinfo s)

/-- RD_KCNT, R113. -/
def execRdKcnt (s : State) : Host.Outcome State Fault Refusal := .next (respond (kcntByte s) s)

/-- RD_DCNT, R114. -/
def execRdDcnt (s : State) : Host.Outcome State Fault Refusal := .next (respond (dcntByte s) s)

/-- RD_DOUT, R115. -/
def execRdDout (j : BitVec 4) (s : State) : Host.Outcome State Fault Refusal := .next (respond (byteAt s.out j.toNat) s)

/-- ACCESS_IGNORED, R116: a write does nothing, a read returns 0x00. -/
def execAccessIgnored (w : Bool) (_a : BitVec 5) (_d : Byte) (s : State) : Host.Outcome State Fault Refusal :=
  .next (if w then s else respond 0x00 s)

end Sys2Proof.Machine
end

