-- ==== Sys2Proof/Machine/Dispatch.lean ====
section
/-! DEFINITION. One arm per instruction. -/

namespace Sys2Proof.Machine

def exec (i : Instr) (s : State) : Host.Outcome State Fault Refusal :=
  match i with
  | .keyexp ksz => Sys2Proof.Machine.execKeyexp ksz s
  | .encrypt => Sys2Proof.Machine.execEncrypt s
  | .decrypt => Sys2Proof.Machine.execDecrypt s
  | .cmdIllegal d => Sys2Proof.Machine.execCmdIllegal d s
  | .wrKeyin d => Sys2Proof.Machine.execWrKeyin d s
  | .wrDin d => Sys2Proof.Machine.execWrDin d s
  | .rdStatus => Sys2Proof.Machine.execRdStatus s
  | .rdErrcode => Sys2Proof.Machine.execRdErrcode s
  | .rdErrinfo => Sys2Proof.Machine.execRdErrinfo s
  | .rdKcnt => Sys2Proof.Machine.execRdKcnt s
  | .rdDcnt => Sys2Proof.Machine.execRdDcnt s
  | .rdDout j => Sys2Proof.Machine.execRdDout j s
  | .accessIgnored w a d => Sys2Proof.Machine.execAccessIgnored w a d s
  | .kxw => Sys2Proof.Machine.execKxw s
  | .ark rnd => Sys2Proof.Machine.execArk rnd s
  | .sb => Sys2Proof.Machine.execSb s
  | .isb => Sys2Proof.Machine.execIsb s
  | .sr => Sys2Proof.Machine.execSr s
  | .isr => Sys2Proof.Machine.execIsr s
  | .mc => Sys2Proof.Machine.execMc s
  | .imc => Sys2Proof.Machine.execImc s

end Sys2Proof.Machine
end

