-- ==== Sys2Proof/Machine/Turns.lean ====
section
/-! DEFINITION. One turn of each agent: an engine step (42 R83, 44 R96), a clock edge seen by the bus port (45 R102,
R103) with reset (70 R143), and how a given word is brought to be the next one that runs (assumption 11). -/

namespace Sys2Proof.Machine

/-- R96: the engine's turn. While PHASE = IDLE it has no step and its state holds (R142). -/
def engineTurn (s : State) : Host.Outcome State Fault Refusal :=
  match fetchMicroOp s with
  | none => .next s
  | some (.error f) => .fault f
  | some (.ok u) =>
    match decodeUop u with
    | .error _ => .refused (.unusedMicroOp u)
    | .ok i => exec i s

/-- R102, R143: what the read-data port shows at an edge before the addressed register is read: 0x00 in a cycle with
rd_en high, which stays when the cycle performs a write or a reset, and nothing valid with rd_en low. -/
def latchPort (p : Pins) (s : State) : State :=
  { s with rdata := if p.rdEn then some 0x00 else none }

/-- R102, R103, R143: a clock edge. With rst high the state is reset and the cycle's transaction is lost; else the
transaction on the ports, if there is one, is decoded and performed. -/
def edgeTurn (p : Pins) (s : State) : Host.Outcome State Fault Refusal :=
  if p.rst then .next (resetStep (latchPort p s))
  else match p.transaction with
    | none => .next (latchPort p s)
    | some t => exec (decodeBus t) (latchPort p s)

/-- One turn of whichever agent it belongs to; it neither reads nor writes the schedule. -/
def takeTurn (t : Turn) (s : State) : Host.Outcome State Fault Refusal :=
  match t with
  | .engine => engineTurn s
  | .edge p => edgeTurn p s

/-- The next turn: the first of the schedule, or the engine's when the schedule is empty (R53, R119; assumption 1). -/
def nextTurn (s : State) : Host.Outcome State Fault Refusal :=
  match s.sched with
  | [] => takeTurn .engine s
  | t :: rest => takeTurn t { s with sched := rest }

/-- Put a transaction word on the ports at the next turn. -/
def placeBusWord (t : BitVec 14) (s : State) : State :=
  { s with sched := .edge (Pins.ofWord t) :: s.sched }

/-- Where a micro-program of the given key size first holds a word: in the encryption's, else in the decryption's. -/
def findMicroOp (ks : KeySize) (u : Byte) : Option (Phase × Nat) :=
  match (uprogEnc ks.nr).findIdx? (· == u) with
  | some n => some (.enc, n)
  | none =>
    match (uprogDec ks.nr).findIdx? (· == u) with
    | some n => some (.dec, n)
    | none => none

/-- Bring the engine to a micro-op word and give it the next turn: KXW at the first word to compute, another word at
its first place in a micro-program of the current key size, or of the 256-bit one where the current has none. -/
def placeMicroOp (u : Byte) (s : State) : State :=
  let t : State := { s with sched := .engine :: s.sched }
  if u = 0x10 then
    match KeySize.ofCode s.ksz with
    | some ks => { t with phase := .keyexp, ki := BitVec.ofNat 6 ks.nk }
    | none => { t with phase := .keyexp, ksz := 0b10, ki := BitVec.ofNat 6 KeySize.k256.nk }
  else
    match (KeySize.ofCode s.ksz).bind (findMicroOp · u) with
    | some (ph, n) => { t with phase := ph, upc := BitVec.ofNat 6 n }
    | none =>
      match findMicroOp .k256 u with
      | some (ph, n) => { t with phase := ph, ksz := 0b10, upc := BitVec.ofNat 6 n }
      | none => t

end Sys2Proof.Machine
end

