-- ==== Sys2Proof/Machine/Step.lean ====
section
/-! DEFINITION. The step of the machine, and the placing of a word so that the next step runs it. -/

namespace Sys2Proof.Machine

/-- One step: a host step, an engine step or a reset (R53, R143), as the schedule says. -/
def step (s : State) : Host.Outcome State Fault Refusal := nextTurn s

/-- `s` with the given opcode-table word where the next step takes its instruction from: a transaction word on the bus
ports, a micro-op word (8 bits) at the engine's place in a micro-program. -/
def State.withFetchWord (s : State) (nbits w : Nat) : State :=
  if nbits ≤ 8 then placeMicroOp (BitVec.ofNat 8 w) s else placeBusWord (BitVec.ofNat 14 w) s

end Sys2Proof.Machine
end

