-- ==== Sys2Proof/Machine/Execution.lean ====
section
/-! DEFINITION. Executions (20_memory R53): which turns a state admits, infinite executions in which the turns come from
outside the state, and their fairness. A finite execution is a list of turns, which `step` takes from the schedule
(Laws/Execution.lean: `runsTo_schedule`). -/

namespace Sys2Proof.Machine

/-- R53, R102, R143: a clock edge can come at any time; the engine has a step enabled exactly when PHASE is not IDLE. -/
def turnEnabled (t : Turn) (s : State) : Bool :=
  match t with
  | .edge _ => true
  | .engine => busy s

/-- R53: `u` follows `s` by the turn `t`. For one state several turns are admitted; that is the interleaving. -/
def Admits (s : State) (t : Turn) (u : State) : Prop := turnEnabled t s = true ∧ takeTurn t s = .next u

/-- An infinite sequence of states and the turns between them. A cycle without a host step is an edge with neither
strobe high. -/
structure Execution where
  state : Nat → State
  turn : Nat → Turn

/-- R53: every step of the sequence is one that its state admits. -/
def Execution.Admitted (e : Execution) : Prop := ∀ n, Admits (e.state n) (e.turn n) (e.state (n + 1))

/-- R53, R8: an engine step that stays enabled is eventually taken. -/
def Execution.Fair (e : Execution) : Prop :=
  ∀ n, (∀ m, n ≤ m → turnEnabled .engine (e.state m) = true) → ∃ m, n ≤ m ∧ e.turn m = .engine

/-- No edge of the execution carries rst = 1. -/
def Execution.NoReset (e : Execution) : Prop := ∀ n p, e.turn n = .edge p → p.rst = false

/-- A finite execution: the given turns in order. -/
def takeTurns : List Turn → State → Host.Outcome State Fault Refusal
  | [], s => .next s
  | t :: ts, s =>
    match takeTurn t s with
    | .next u => takeTurns ts u
    | .fault f => .fault f
    | .refused r => .refused r

end Sys2Proof.Machine
end

