-- ==== Sys2Proof/Machine/HostProgram.lean ====
section
/-! DEFINITION. The host's side: the register map (10_state R26), host assembly (30_encoding R67), the
pseudo-instructions (R68) with WAIT_IDLE as the host's loop, the source's three calls with their outcomes
(45_host_interface R117), and a program as the turns of a schedule. -/

namespace Sys2Proof.Machine

/-- R26, R67: the named registers. -/
inductive Reg where
  | ctrl
  | status
  | errcode
  | errinfo
  | keyin
  | kcnt
  | din
  | dcnt
  | dout (j : Fin 16)
  deriving DecidableEq, Repr

/-- R26: the access a register allows. -/
inductive Access where
  | readOnly
  | writeOnly
  deriving DecidableEq, Repr

/-- R26: A(reg). -/
def Reg.addr : Reg → BitVec 5
  | .ctrl => 0x00
  | .status => 0x01
  | .errcode => 0x02
  | .errinfo => 0x03
  | .keyin => 0x04
  | .kcnt => 0x05
  | .din => 0x06
  | .dcnt => 0x07
  | .dout j => BitVec.ofNat 5 (0x10 + j.val)

/-- R26: CTRL, KEYIN and DIN are write-only, all other registers read-only. -/
def Reg.access : Reg → Access
  | .ctrl => .writeOnly
  | .status => .readOnly
  | .errcode => .readOnly
  | .errinfo => .readOnly
  | .keyin => .writeOnly
  | .kcnt => .readOnly
  | .din => .writeOnly
  | .dcnt => .readOnly
  | .dout _ => .readOnly

/-- R26, R28 to R36: the value a register reads as; write-only registers read 0x00. -/
def Reg.value (s : State) : Reg → Byte
  | .ctrl => 0x00
  | .status => statusByte s
  | .errcode => s.errcode
  | .errinfo => s.errinfo
  | .keyin => 0x00
  | .kcnt => kcntByte s
  | .din => 0x00
  | .dcnt => dcntByte s
  | .dout j => s.out[j]

/-- R67: `WR <reg>, <imm8>`. -/
def wr (r : Reg) (imm : Byte) : BitVec 14 := busWord true r.addr imm

/-- R67: `RD <reg>`. -/
def rd (r : Reg) : BitVec 14 := busWord false r.addr 0x00

/-- R67: `WR [<addr>], <imm8>`. -/
def wrAt (a : BitVec 5) (imm : Byte) : BitVec 14 := busWord true a imm

/-- R67: `RD [<addr>]`. -/
def rdAt (a : BitVec 5) : BitVec 14 := busWord false a 0x00

/-- R67, R68: the command byte of `KEYEXP.128`, `KEYEXP.192` and `KEYEXP.256`. -/
def keyexpByte : KeySize → Byte
  | .k128 => 0x01
  | .k192 => 0x11
  | .k256 => 0x21

/-- R68: the pseudo-instructions. `waitIdle n` is the expansion in which STATUS is read `n + 1` times. -/
inductive Pseudo where
  | keyexp (ks : KeySize)
  | encrypt
  | decrypt
  | loadKey (bytes : List Byte)
  | loadBlk (bytes : List Byte)
  | waitIdle (n : Nat)
  | readout
  | check
  deriving DecidableEq, Repr

/-- R68: the exact expansions. -/
def Pseudo.expand : Pseudo → List (BitVec 14)
  | .keyexp ks => [wr .ctrl (keyexpByte ks)]
  | .encrypt => [wr .ctrl 0x02]
  | .decrypt => [wr .ctrl 0x03]
  | .loadKey bytes => bytes.map (wr .keyin)
  | .loadBlk bytes => bytes.map (wr .din)
  | .waitIdle n => List.replicate (n + 1) (rd .status)
  | .readout => (List.finRange 16).map fun j => rd (.dout j)
  | .check => [rd .errcode, rd .errinfo]

/-- One operation of a host program: a transaction, or the host's own loop WAIT_IDLE (R68). -/
inductive HostOp where
  | bus (t : BitVec 14)
  | waitIdle
  deriving DecidableEq, Repr

/-- The transaction that an operation performs; WAIT_IDLE reads STATUS. -/
def HostOp.word : HostOp → BitVec 14
  | .bus t => t
  | .waitIdle => rd .status

/-- R68: whether the operation is performed again: WAIT_IDLE until a read returns bit 0 = 0. -/
def HostOp.repeats (op : HostOp) (returned : Option Byte) : Bool :=
  match op with
  | .bus _ => false
  | .waitIdle =>
    match returned with
    | some d => d.getLsbD 0
    | none => false

/-- R68: a pseudo-instruction as operations, with WAIT_IDLE as the loop it is. -/
def Pseudo.ops : Pseudo → List HostOp
  | .keyexp ks => (Pseudo.keyexp ks).expand.map .bus
  | .encrypt => Pseudo.encrypt.expand.map .bus
  | .decrypt => Pseudo.decrypt.expand.map .bus
  | .loadKey bytes => (Pseudo.loadKey bytes).expand.map .bus
  | .loadBlk bytes => (Pseudo.loadBlk bytes).expand.map .bus
  | .waitIdle _ => [.waitIdle]
  | .readout => Pseudo.readout.expand.map .bus
  | .check => Pseudo.check.expand.map .bus

/-- R53, R68, R118: a host program performed under a given interleaving: before each transaction the next number of
`gaps` engine turns. WAIT_IDLE takes as many transactions as the values it reads make it. `none` where the gaps end
before the program does. -/
def perform : List Nat → List HostOp → State → Option (Host.Outcome State Fault Refusal)
  | _, [], s => some (.next s)
  | [], _ :: _, _ => none
  | g :: gs, op :: ops, s =>
    match takeTurns (List.replicate g .engine ++ [.edge (Pins.ofWord op.word)]) s with
    | .next t => perform gs (if op.repeats t.rdata then op :: ops else ops) t
    | .fault f => some (.fault f)
    | .refused r => some (.refused r)

/-- R117: the source's calls. `new` takes any key size in bits, a supported one or not. -/
inductive Call where
  | new (keySize : Nat) (cipherKey : List Byte)
  | encrypt (block : List Byte)
  | decrypt (block : List Byte)
  deriving DecidableEq, Repr

/-- R2, R6: the key size of a number of bits; no other number has one. -/
def keySizeOfBits (n : Nat) : Option KeySize :=
  if n = 128 then some .k128
  else if n = 192 then some .k192
  else if n = 256 then some .k256
  else none

/-- R117, R127: the command byte of `new`: the key size's KEYEXP, and for a size outside 128, 192 and 256 the one with
KSZ = 0b11. -/
def newByte (keySize : Nat) : Byte :=
  match keySizeOfBits keySize with
  | some ks => keyexpByte ks
  | none => 0x31

/-- R117: the operations of a call. -/
def Call.ops : Call → List HostOp
  | .new keySize key => (Pseudo.loadKey key).ops ++ [.bus (wr .ctrl (newByte keySize)), .waitIdle] ++ Pseudo.check.ops
  | .encrypt block => (Pseudo.loadBlk block).ops ++ Pseudo.encrypt.ops ++ [.waitIdle] ++ Pseudo.check.ops ++
      Pseudo.readout.ops
  | .decrypt block => (Pseudo.loadBlk block).ops ++ Pseudo.decrypt.ops ++ [.waitIdle] ++ Pseudo.check.ops ++
      Pseudo.readout.ops

/-- R124: the outcome a byte read from ERRCODE stands for; 0x07 to 0xFF are never held. -/
def ErrCode.ofByte (b : Byte) : Option ErrCode :=
  [ErrCode.ok, .busy, .illegalCmd, .badKeysize, .keyLen, .blockLen, .noKey].find? (·.byte == b)

/-- R117: the codes that are the source's "configuration error". -/
def ErrCode.isConfigurationError : ErrCode → Bool
  | .ok => false
  | .busy => false
  | .illegalCmd => false
  | .badKeysize => true
  | .keyLen => true
  | .blockLen => true
  | .noKey => false

/-- R117: what a call comes to. A usage error has no software counterpart. -/
inductive CallResult where
  | constructed
  | output (bytes : List Byte)
  | configurationError (code : ErrCode) (info : Byte)
  | usageError (code : ErrCode) (info : Byte)
  deriving DecidableEq, Repr

/-- R117: a refusal as the result of its call; OK is none. -/
def ErrCode.failure (code : ErrCode) (info : Byte) : Option CallResult :=
  if code = .ok then none
  else if code.isConfigurationError then some (.configurationError code info)
  else some (.usageError code info)

/-- R117: how many values a call reads from its last STATUS read on: STATUS, ERRCODE, ERRINFO and for a block DOUT. -/
def Call.tailReads : Call → Nat
  | .new _ _ => 3
  | .encrypt _ => 19
  | .decrypt _ => 19

/-- R117: whether the last STATUS read is that of a success: KEY_READY for `new`, OUT_VALID for a block. -/
def Call.doneFlag (c : Call) (status : Byte) : Bool :=
  match c with
  | .new _ _ => status.getLsbD 1
  | .encrypt _ => status.getLsbD 2
  | .decrypt _ => status.getLsbD 2

/-- R117: the result of a call that succeeded, from the values READOUT returned. -/
def Call.value (c : Call) (out : List Byte) : CallResult :=
  match c with
  | .new _ _ => .constructed
  | .encrypt _ => .output out
  | .decrypt _ => .output out

/-- R117: the outcome of a call, from the values its reads returned. `none` where they are no outcome that R117 lists:
too few of them, a code never held, or OK without the flag of a success. -/
def Call.outcome (c : Call) (returned : List Byte) : Option CallResult :=
  match returned.drop (returned.length - c.tailReads) with
  | status :: code :: info :: out =>
    match ErrCode.ofByte code with
    | none => none
    | some .ok => if c.doneFlag status then some (c.value out) else none
    | some e => e.failure info
  | _ => none

/-- R117, R119: a call made in a state, under a given interleaving: its outcome, from what its own reads returned. -/
def Call.run (c : Call) (gaps : List Nat) (s : State) : Option CallResult :=
  match perform gaps c.ops s with
  | some (.next t) => c.outcome (t.reads.drop s.reads.length)
  | some (.fault _) => none
  | some (.refused _) => none
  | none => none

/-- A program's transactions as turns: one clock edge each, with no engine turn between them. -/
def turnsOf (ts : List (BitVec 14)) : List Turn := ts.map fun t => .edge (Pins.ofWord t)

/-- `n` engine turns, to be placed between a program's transactions. -/
def engineTurns (n : Nat) : List Turn := List.replicate n .engine

/-- R119: a run is over when every turn of its program has been taken and no accepted command is still running. Its
observation is then `s.reads` together with `s`. -/
def runOver (s : State) : Bool := s.sched.isEmpty && !busy s

end Sys2Proof.Machine
end

