-- ==== Sys2Proof/Safety.lean ====
section
/-! DEFINITION. The terms in which statements about the machine speak: the invariant of every state a run from reset
reaches, what the host can see, what is left of a running command, and runs without a reset. -/

namespace Sys2Proof.Machine

/-- R82, R83: words nk..n-1 of the store are the schedule words of the words before them. -/
def ScheduleUpTo (ks : KeySize) (w : Vector Word 60) (n : Nat) : Prop :=
  ∀ i, ks.nk ≤ i → i < n → wordAt w i = scheduleWord ks.nk i (wordAt w (i - 1)) (wordAt w (i - ks.nk))

/-- What every state reached from reset satisfies. -/
structure Inv (s : State) : Prop where
  /-- R25: KSZ never holds 0b11. -/
  keySize : s.ksz ≠ 0b11
  /-- R19: the largest value of UPC. -/
  upcBound : s.upc.toNat ≤ 56
  /-- R20: the largest value of KI. -/
  kiBound : s.ki.toNat ≤ 60
  /-- R29: only the values 0x00 to 0x06 are ever held. -/
  errcodeRange : s.errcode.toNat ≤ 6
  /-- R30: ERRINFO is 0x00 but for KEY_LEN and BLOCK_LEN. -/
  infoZero : s.errcode ≠ 0x04 → s.errcode ≠ 0x05 → s.errinfo = 0x00
  /-- R124: the count of a KEY_LEN is 0..63. -/
  infoKey : s.errcode = 0x04 → s.errinfo.toNat ≤ 63
  /-- R124: the count of a BLOCK_LEN is 0..31. -/
  infoBlock : s.errcode = 0x05 → s.errinfo.toNat ≤ 31
  /-- R37: the key buffer holds only the bytes counted. -/
  keyTail : ∀ i, s.kcnt.toNat ≤ i → byteAt s.kbuf i = 0x00
  /-- R38: the block buffer holds only the bytes counted. -/
  blockTail : ∀ i, s.dcnt.toNat ≤ i → byteAt s.dbuf i = 0x00
  /-- R40: OUT holds either all zeros or one complete result. -/
  outCleared : s.outValid = false → s.out = Vector.replicate 16 0x00
  /-- R17, R97: S holds a block only while one is being transformed. -/
  stateCleared : s.phase = .idle ∨ s.phase = .keyexp → s.S = Mat.zero
  /-- R83: during KEYEXP, KI is in its range and the words before it are computed; no key is ready (R151). -/
  expanding : s.phase = .keyexp → s.keyReady = false ∧ ∀ ks, KeySize.ofCode s.ksz = some ks →
    ks.nk ≤ s.ki.toNat ∧ s.ki.toNat < ks.scheduleLen ∧ ScheduleUpTo ks s.W s.ki.toNat
  /-- R96: during ENC and DEC, UPC points into the micro-program; the key is ready and OUT holds no result (R149). -/
  ciphering : s.phase = .enc ∨ s.phase = .dec → s.keyReady = true ∧ s.outValid = false ∧
    ∀ ks, KeySize.ofCode s.ksz = some ks → s.upc.toNat < ks.programLen
  /-- R22: KEY_READY means that a complete schedule for the key size in KSZ is held in W. -/
  scheduleReady : s.keyReady = true → ∀ ks, KeySize.ofCode s.ksz = some ks → ScheduleUpTo ks s.W ks.scheduleLen

/-- R41, R137: two states that no register read can tell apart. -/
def SameView (s t : State) : Prop := ∀ r : Reg, r.value s = r.value t

/-- R153, R154: the engine steps a running command still takes. -/
def stepsLeft (s : State) : Nat :=
  match KeySize.ofCode s.ksz with
  | none => 0
  | some ks =>
    match s.phase with
    | .idle => 0
    | .keyexp => ks.scheduleLen - s.ki.toNat
    | .enc => ks.programLen - s.upc.toNat
    | .dec => ks.programLen - s.upc.toNat

/-- No edge of the schedule carries rst = 1. -/
def NoReset (ts : List Turn) : Prop := ∀ p, Turn.edge p ∈ ts → p.rst = false

/-- `n` steps from `s` lead to `t`. -/
def RunsTo (n : Nat) (s t : State) : Prop := Host.Core.run Sys2Proof.core n s = .next t

/-- `t` is the first state of the run from `s` in which the engine is idle, after `n` steps. -/
def FirstIdle (n : Nat) (s t : State) : Prop :=
  RunsTo n s t ∧ t.phase = .idle ∧ ∀ m u, m < n → RunsTo m s u → u.phase ≠ .idle

/-- Whether an instruction is a write to CTRL (R104 to R107). -/
def isCommand : Instr → Bool
  | .keyexp _ => true
  | .encrypt => true
  | .decrypt => true
  | .cmdIllegal _ => true
  | .wrKeyin _ => false
  | .wrDin _ => false
  | .rdStatus => false
  | .rdErrcode => false
  | .rdErrinfo => false
  | .rdKcnt => false
  | .rdDcnt => false
  | .rdDout _ => false
  | .accessIgnored _ _ _ => false
  | .kxw => false
  | .ark _ => false
  | .sb => false
  | .isb => false
  | .sr => false
  | .isr => false
  | .mc => false
  | .imc => false

/-- Whether an instruction is a read, which returns a byte to the host (R110 to R116). -/
def isRead : Instr → Bool
  | .keyexp _ => false
  | .encrypt => false
  | .decrypt => false
  | .cmdIllegal _ => false
  | .wrKeyin _ => false
  | .wrDin _ => false
  | .rdStatus => true
  | .rdErrcode => true
  | .rdErrinfo => true
  | .rdKcnt => true
  | .rdDcnt => true
  | .rdDout _ => true
  | .accessIgnored w _ _ => !w
  | .kxw => false
  | .ark _ => false
  | .sb => false
  | .isb => false
  | .sr => false
  | .isr => false
  | .mc => false
  | .imc => false

/-- Whether an instruction is a micro-operation of a cipher micro-program (R61 but for KXW). -/
def isRoundOp : Instr → Bool
  | .keyexp _ => false
  | .encrypt => false
  | .decrypt => false
  | .cmdIllegal _ => false
  | .wrKeyin _ => false
  | .wrDin _ => false
  | .rdStatus => false
  | .rdErrcode => false
  | .rdErrinfo => false
  | .rdKcnt => false
  | .rdDcnt => false
  | .rdDout _ => false
  | .accessIgnored _ _ _ => false
  | .kxw => false
  | .ark _ => true
  | .sb => true
  | .isb => true
  | .sr => true
  | .isr => true
  | .mc => true
  | .imc => true

end Sys2Proof.Machine
end

