-- ==== Sys2Proof/Certificates/Slice0/Obligations.lean ====
section
/-! DEFINITION. Statements about the model, for the provers. -/

open Sys2Proof Sys2Proof.Machine

/-! Encoding -/

/-- R59 to R64: every well-formed instruction is what its canonical word decodes to, with every operand. -/
def Obligations.DecodingAnEncodingGivesTheInstructionBack : Prop :=
  ∀ i : Instr, i.wf = true → decode i.format (encode i) = .ok i

/-- R59, R63: every 14-bit word decodes to a well-formed transaction, whose canonical word is the word itself for a
write and the word with D = 0 for a read. -/
def Obligations.EveryTransactionWordDecodesAndIsRestored : Prop :=
  ∀ t : BitVec 14, (decodeBus t).wf = true ∧ (decodeBus t).format = .bus ∧
    encode (decodeBus t) = (busWord (busW t) (busA t) (if busW t then busD t else 0x00)).toNat ∧
    busWord (busW t) (busA t) (busD t) = t

/-- R63: decoding is by the first row that matches, in the table's priority order. -/
def Obligations.TransactionsDecodeByTheFirstMatchingRow : Prop :=
  ∀ t : BitVec 14, (decodeBus t).row ∈ busRows ∧ (decodeBus t).row.hits t.toNat = true ∧
    ∀ r ∈ busRows, r.hits t.toNat = true → r ≠ (decodeBus t).row → (decodeBus t).row.priority < r.priority

/-- R60: exactly six bytes are commands. -/
def Obligations.ExactlySixBytesAreCommands : Prop :=
  decodeCmd 0x01 = .keyexp 0b00 ∧ decodeCmd 0x11 = .keyexp 0b01 ∧ decodeCmd 0x21 = .keyexp 0b10 ∧
  decodeCmd 0x31 = .keyexp 0b11 ∧ decodeCmd 0x02 = .encrypt ∧ decodeCmd 0x03 = .decrypt ∧
  ∀ d : Byte, d ∉ [(0x01 : Byte), 0x11, 0x21, 0x31, 0x02, 0x03] → decodeCmd d = .cmdIllegal d

/-- R61, R64: a micro-op word decodes by its KIND alone, an ARK takes RND, and the unused kinds are refused. That
ARK's RND 15 is refused is the model's choice (assumption 6). -/
def Obligations.MicroOpWordsDecodeByTheirKind : Prop :=
  (∀ k r : BitVec 4, k.toNat = 0 ∨ 9 ≤ k.toNat → decodeUop (uopWord k r) = .error .unusedKind) ∧
  (∀ r : BitVec 4, decodeUop (uopWord 0x1 r) = .ok .kxw ∧ decodeUop (uopWord 0x3 r) = .ok .sb ∧
    decodeUop (uopWord 0x4 r) = .ok .isb ∧ decodeUop (uopWord 0x5 r) = .ok .sr ∧
    decodeUop (uopWord 0x6 r) = .ok .isr ∧ decodeUop (uopWord 0x7 r) = .ok .mc ∧
    decodeUop (uopWord 0x8 r) = .ok .imc) ∧
  (∀ n : Fin 15, decodeUop (uopWord 0x2 (BitVec.ofNat 4 n.val)) = .ok (.ark n)) ∧
  decodeUop (uopWord 0x2 15) = .error .roundOutOfRange

/-- Words written out from the encodings of R59 to R61 decode to the instructions they stand for. -/
def Obligations.SampleWordsDecode : Prop :=
  decode .bus 0x2021 = .ok (.keyexp 0b10) ∧ decode .bus 0x2002 = .ok .encrypt ∧ decode .bus 0x2003 = .ok .decrypt ∧
  decode .bus 0x2012 = .ok (.cmdIllegal 0x12) ∧ decode .bus 0x2402 = .ok (.wrKeyin 0x02) ∧
  decode .bus 0x2655 = .ok (.wrDin 0x55) ∧ decode .bus 0x0155 = .ok .rdStatus ∧ decode .bus 0x0200 = .ok .rdErrcode ∧
  decode .bus 0x0300 = .ok .rdErrinfo ∧ decode .bus 0x0500 = .ok .rdKcnt ∧ decode .bus 0x0700 = .ok .rdDcnt ∧
  decode .bus 0x1f00 = .ok (.rdDout 15) ∧ decode .bus 0x0f00 = .ok (.accessIgnored false 0x0f 0x00) ∧
  decode .bus 0x3f55 = .ok (.accessIgnored true 0x1f 0x55) ∧ decode .uop 0x10 = .ok .kxw ∧
  decode .uop 0x2e = .ok (.ark 14) ∧ decode .uop 0x80 = .ok .imc

/-! Steps -/

/-- R103: at a clock edge without reset, the step is the decoded transaction performed on the state, with the turn
taken from the schedule and the port showing 0x00 in a read cycle until the read's own value replaces it. -/
def Obligations.AnEdgePerformsTheDecodedTransaction : Prop :=
  ∀ (s : State) (p : Pins) (rest : List Turn) (t : BitVec 14),
    s.sched = .edge p :: rest → p.rst = false → p.transaction = some t →
    step s = exec (decodeBus t) { s with sched := rest, rdata := if p.rdEn then some 0x00 else none }

/-- R83, R96, R142: an engine turn performs the micro-operation at UPC of the running micro-program, KXW during KEYEXP,
and nothing while idle. The engine's turn comes from the schedule, or when the schedule is empty (assumption 1). -/
def Obligations.AnEngineTurnPerformsTheFetchedMicroOp : Prop :=
  ∀ (s : State) (rest : List Turn), s.sched = .engine :: rest ∨ (s.sched = [] ∧ rest = []) →
    (s.phase = .idle → step s = .next { s with sched := rest }) ∧
    (s.phase = .keyexp → step s = exec .kxw { s with sched := rest }) ∧
    (∀ ks u i, KeySize.ofCode s.ksz = some ks → decodeUop u = .ok i →
      (s.phase = .enc → (uprogEnc ks.nr)[s.upc.toNat]? = some u → step s = exec i { s with sched := rest }) ∧
      (s.phase = .dec → (uprogDec ks.nr)[s.upc.toNat]? = some u → step s = exec i { s with sched := rest }))

/-- R103: no host step can fail: every transaction completes in its step, a read returning one byte to the host and a
write nothing. -/
def Obligations.EveryTransactionCompletesInItsStep : Prop :=
  ∀ (s : State) (p : Pins) (rest : List Turn) (t : BitVec 14),
    s.sched = .edge p :: rest → p.rst = false → p.transaction = some t →
    ∃ s', exec (decodeBus t) { s with sched := rest, rdata := if p.rdEn then some 0x00 else none } = .next s' ∧
      step s = .next s' ∧ s'.sched = rest ∧
      (busW t = true → s'.reads = s.reads) ∧
      (busW t = false → ∃ d, s'.rdata = some d ∧ s'.reads = s.reads ++ [d])

/-- R102: with both strobes high the write is performed only and rdata is 0x00; with neither there is no host step. -/
def Obligations.BothStrobesWriteOnlyAndNeitherDoesNothing : Prop :=
  ∀ (s : State) (p : Pins) (rest : List Turn), s.sched = .edge p :: rest → p.rst = false →
    (p.wrEn = true → p.rdEn = true →
      ∃ s', exec (decodeWrite p.addr p.wdata) { s with sched := rest, rdata := some 0x00 } = .next s' ∧
        step s = .next s' ∧ s'.rdata = some 0x00 ∧ s'.reads = s.reads) ∧
    (p.wrEn = false → p.rdEn = true →
      step s = exec (decodeRead p.addr) { s with sched := rest, rdata := some 0x00 }) ∧
    (p.wrEn = false → p.rdEn = false → step s = .next { s with sched := rest, rdata := none })

/-- R143: a reset edge gives every element of the state record its reset value, whatever the engine is doing, loses the
cycle's transaction, and a read in that cycle returns 0x00. (What it does to the model's own fields is not stated here:
assumption 3.) -/
def Obligations.AResetEdgeClearsEveryElement : Prop :=
  ∀ (s : State) (p : Pins) (rest : List Turn), s.sched = .edge p :: rest → p.rst = true →
    ∃ t, step s = .next t ∧ (p.rdEn = true → t.rdata = some 0x00) ∧
      t = { phase := .idle, upc := 0, ki := 0, ksz := 0b00, keyReady := false, outValid := false, errcode := 0x00,
            errinfo := 0x00, kbuf := Vector.replicate 32 0x00, kcnt := 0, dbuf := Vector.replicate 16 0x00, dcnt := 0,
            W := Vector.replicate 60 Word.zero, S := Mat.zero, out := Vector.replicate 16 0x00,
            rdata := t.rdata, reads := t.reads, sched := t.sched }

/-- R43: the reset value of every element, and STATUS reads 0x00. (rdata, reads and sched are no elements of R43:
assumptions 1 and 2.) -/
def Obligations.ResetStateHasTheListedValues : Prop :=
  let s := State.reset
  s.phase = .idle ∧ s.upc = 0 ∧ s.ki = 0 ∧ s.ksz = 0b00 ∧ s.keyReady = false ∧ s.outValid = false ∧
  s.errcode = 0x00 ∧ s.errinfo = 0x00 ∧ (∀ i, i < 32 → byteAt s.kbuf i = 0x00) ∧ s.kcnt = 0 ∧
  (∀ i, i < 16 → byteAt s.dbuf i = 0x00) ∧ s.dcnt = 0 ∧ (∀ i, i < 60 → wordAt s.W i = ⟨0, 0, 0, 0⟩) ∧
  (∀ r c, s.S.get r c = 0x00) ∧ (∀ i, i < 16 → byteAt s.out i = 0x00) ∧ busy s = false ∧ err s = false ∧
  statusByte s = 0x00

/-- A word placed by withFetchWord is what the next step runs (assumption 11): a transaction on a state that differs
in nothing else, a micro-op after setting only PHASE, UPC, KI and KSZ. -/
def Obligations.APlacedWordIsRunByTheNextStep : Prop :=
  (∀ (s : State) (t : BitVec 14), step (s.withFetchWord 16 t.toNat) =
    exec (decodeBus t) { s with rdata := if busW t then none else some 0x00 }) ∧
  (∀ (s : State) (i : Instr), i.format = .uop →
    ∃ ph u k z, step (s.withFetchWord 8 (encode i)) = exec i { s with phase := ph, upc := u, ki := k, ksz := z })

/-! Commands -/

/-- R104: a KEYEXP while busy, with the unsupported code, with a wrong count, and accepted: everything it writes, all
else unchanged. -/
def Obligations.KeyexpFollowsItsRule : Prop :=
  ∀ (ksz : BitVec 2) (s : State),
    decodeBus (0x2001 ||| (ksz.setWidth 14 <<< 4)) = .keyexp ksz ∧
    (s.phase ≠ .idle → exec (.keyexp ksz) s = .next { s with errcode := 0x01, errinfo := 0x00 }) ∧
    (s.phase = .idle → ksz = 0b11 → exec (.keyexp ksz) s = .next
      { s with keyReady := false, kbuf := Vector.replicate 32 0x00, kcnt := 0, errcode := 0x03, errinfo := 0x00 }) ∧
    (∀ ks, s.phase = .idle → KeySize.ofCode ksz = some ks → s.kcnt.toNat ≠ 4 * ks.nk →
      exec (.keyexp ksz) s = .next
        { s with keyReady := false, kbuf := Vector.replicate 32 0x00, kcnt := 0, errcode := 0x04,
                 errinfo := s.kcnt.setWidth 8 }) ∧
    (∀ ks, s.phase = .idle → KeySize.ofCode ksz = some ks → s.kcnt.toNat = 4 * ks.nk →
      ∃ w : Vector Word 60,
        exec (.keyexp ksz) s = .next
          { s with keyReady := false, kbuf := Vector.replicate 32 0x00, kcnt := 0, ksz := ksz, W := w,
                   ki := BitVec.ofNat 6 ks.nk, phase := .keyexp, errcode := 0x00, errinfo := 0x00 } ∧
        ∀ i, i < 60 → wordAt w i =
          if i < ks.nk then ⟨byteAt s.kbuf (4 * i), byteAt s.kbuf (4 * i + 1), byteAt s.kbuf (4 * i + 2),
            byteAt s.kbuf (4 * i + 3)⟩
          else wordAt s.W i)

/-- R105, R106: an ENCRYPT or DECRYPT while busy, without a key, with a wrong count, and accepted: everything it
writes, all else unchanged. -/
def Obligations.EncryptAndDecryptFollowTheirRules : Prop :=
  decodeBus 0x2002 = .encrypt ∧ decodeBus 0x2003 = .decrypt ∧
  ∀ (i : Instr) (ph : Phase) (s : State), (i = .encrypt ∧ ph = .enc) ∨ (i = .decrypt ∧ ph = .dec) →
    (s.phase ≠ .idle → exec i s = .next { s with errcode := 0x01, errinfo := 0x00 }) ∧
    (s.phase = .idle → s.keyReady = false → exec i s = .next
      { s with out := Vector.replicate 16 0x00, outValid := false, dbuf := Vector.replicate 16 0x00, dcnt := 0,
               errcode := 0x06, errinfo := 0x00 }) ∧
    (s.phase = .idle → s.keyReady = true → s.dcnt.toNat ≠ 16 → exec i s = .next
      { s with out := Vector.replicate 16 0x00, outValid := false, dbuf := Vector.replicate 16 0x00, dcnt := 0,
               errcode := 0x05, errinfo := s.dcnt.setWidth 8 }) ∧
    (s.phase = .idle → s.keyReady = true → s.dcnt.toNat = 16 →
      ∃ m : Mat,
        exec i s = .next
          { s with out := Vector.replicate 16 0x00, outValid := false, dbuf := Vector.replicate 16 0x00, dcnt := 0,
                   S := m, upc := 0, phase := ph, errcode := 0x00, errinfo := 0x00 } ∧
        ∀ r c : Fin 4, m.get r c = byteAt s.dbuf (r.val + 4 * c.val))

/-- R107: an illegal command byte changes ERRCODE and ERRINFO only. -/
def Obligations.CmdIllegalFollowsItsRule : Prop :=
  ∀ (d : Byte) (s : State),
    (d ∉ [(0x01 : Byte), 0x11, 0x21, 0x31, 0x02, 0x03] → decodeBus (busWord true 0x00 d) = .cmdIllegal d) ∧
    (s.phase ≠ .idle → exec (.cmdIllegal d) s = .next { s with errcode := 0x01, errinfo := 0x00 }) ∧
    (s.phase = .idle → exec (.cmdIllegal d) s = .next { s with errcode := 0x02, errinfo := 0x00 })

/-- R131: a CTRL write reports exactly one code, the first that applies in the order BUSY, ILLEGAL_CMD, then for KEYEXP
BAD_KEYSIZE and KEY_LEN, for ENCRYPT and DECRYPT NO_KEY and BLOCK_LEN (R124: the codes), else OK. -/
def Obligations.EveryCtrlWriteReportsTheFirstErrorThatApplies : Prop :=
  ∀ (d : Byte) (s : State), ∃ t, exec (decodeWrite 0x00 d) s = .next t ∧
    t.errcode =
      (if s.phase ≠ .idle then 0x01
      else if d ∉ [(0x01 : Byte), 0x11, 0x21, 0x31, 0x02, 0x03] then 0x02
      else if d = 0x31 then 0x03
      else if d = 0x01 then if s.kcnt ≠ 16 then 0x04 else 0x00
      else if d = 0x11 then if s.kcnt ≠ 24 then 0x04 else 0x00
      else if d = 0x21 then if s.kcnt ≠ 32 then 0x04 else 0x00
      else if s.keyReady = false then 0x06
      else if s.dcnt ≠ 16 then 0x05 else 0x00) ∧
    t.errinfo =
      (if t.errcode = 0x04 then s.kcnt.setWidth 8 else if t.errcode = 0x05 then s.dcnt.setWidth 8 else 0x00)

/-- R122: past the BUSY check every KEYEXP consumes the key buffer and clears KEY_READY, every ENCRYPT and DECRYPT
consumes the block buffer and clears OUT and OUT_VALID, accepted or refused; a command refused with BUSY or
ILLEGAL_CMD changes only ERRCODE and ERRINFO; a count reported in ERRINFO is the count before consumption. -/
def Obligations.CommandsConsumeTheBufferTheyRead : Prop :=
  ∀ (s t : State),
    (∀ c, s.phase = .idle → exec (.keyexp c) s = .next t →
      (∀ i, i < 32 → byteAt t.kbuf i = 0x00) ∧ t.kcnt = 0 ∧ t.keyReady = false ∧
      t.dbuf = s.dbuf ∧ t.dcnt = s.dcnt ∧ t.out = s.out ∧ t.outValid = s.outValid ∧
      (t.errcode = 0x04 → t.errinfo = s.kcnt.setWidth 8)) ∧
    (∀ i, i = .encrypt ∨ i = .decrypt → s.phase = .idle → exec i s = .next t →
      (∀ j, j < 16 → byteAt t.dbuf j = 0x00) ∧ t.dcnt = 0 ∧ (∀ j, j < 16 → byteAt t.out j = 0x00) ∧
      t.outValid = false ∧ t.kbuf = s.kbuf ∧ t.kcnt = s.kcnt ∧ t.keyReady = s.keyReady ∧
      (t.errcode = 0x05 → t.errinfo = s.dcnt.setWidth 8)) ∧
    (∀ i, isCommand i = true → exec i s = .next t → t.errcode = 0x01 ∨ t.errcode = 0x02 →
      t = { s with errcode := t.errcode, errinfo := t.errinfo })

/-! Pushes and reads -/

/-- R108: a key push, at every count: stored while KCNT < 32, counted up to 63; nothing else changes. -/
def Obligations.WrKeyinFollowsItsRule : Prop :=
  ∀ (d : Byte) (s : State), decodeBus (0x2400 ||| d.setWidth 14) = .wrKeyin d ∧
    ∃ t, exec (.wrKeyin d) s = .next t ∧ t = { s with kbuf := t.kbuf, kcnt := t.kcnt } ∧
      t.kcnt.toNat = min (s.kcnt.toNat + 1) 63 ∧
      ∀ i, i < 32 → byteAt t.kbuf i = if i = s.kcnt.toNat then d else byteAt s.kbuf i

/-- R109: a block push, at every count: stored while DCNT < 16, counted up to 31; nothing else changes. -/
def Obligations.WrDinFollowsItsRule : Prop :=
  ∀ (d : Byte) (s : State), decodeBus (0x2600 ||| d.setWidth 14) = .wrDin d ∧
    ∃ t, exec (.wrDin d) s = .next t ∧ t = { s with dbuf := t.dbuf, dcnt := t.dcnt } ∧
      t.dcnt.toNat = min (s.dcnt.toNat + 1) 31 ∧
      ∀ i, i < 16 → byteAt t.dbuf i = if i = s.dcnt.toNat then d else byteAt s.dbuf i

/-- R45: bytes cross the bus in index order: a string pushed into an empty buffer lies there in order, whatever its
length, with the count saturating (R37, R38). -/
def Obligations.PushedBytesLieInTheBufferInOrder : Prop :=
  ∀ (bytes : List Byte) (s : State),
    (s.sched = turnsOf (Pseudo.loadKey bytes).expand → s.kcnt = 0 →
      ∃ t, RunsTo bytes.length s t ∧
        t = { s with kbuf := t.kbuf, kcnt := t.kcnt, rdata := t.rdata, sched := [] } ∧
        t.kcnt.toNat = min bytes.length 63 ∧
        ∀ i, i < 32 → byteAt t.kbuf i = if i < bytes.length then bytes.getD i 0x00 else byteAt s.kbuf i) ∧
    (s.sched = turnsOf (Pseudo.loadBlk bytes).expand → s.dcnt = 0 →
      ∃ t, RunsTo bytes.length s t ∧
        t = { s with dbuf := t.dbuf, dcnt := t.dcnt, rdata := t.rdata, sched := [] } ∧
        t.dcnt.toNat = min bytes.length 31 ∧
        ∀ i, i < 16 → byteAt t.dbuf i = if i < bytes.length then bytes.getD i 0x00 else byteAt s.dbuf i)

/-- R110, with the layout of R28: STATUS, bit by bit. -/
def Obligations.ReadingStatusReturnsTheFlags : Prop :=
  decodeBus 0x0100 = .rdStatus ∧
  ∀ s : State, ∃ d : Byte,
    exec .rdStatus s = .next { s with rdata := some d, reads := s.reads ++ [d] } ∧
    (d.getLsbD 0 = true ↔ s.phase ≠ .idle) ∧ d.getLsbD 1 = s.keyReady ∧ d.getLsbD 2 = s.outValid ∧
    (d.getLsbD 3 = true ↔ s.errcode ≠ 0x00) ∧ d.extractLsb' 4 2 = s.ksz ∧ d.extractLsb' 6 2 = 0b00

/-- R111 to R115: the other reads return their registers and change no state. -/
def Obligations.ReadingARegisterReturnsItsValue : Prop :=
  decodeBus 0x0200 = .rdErrcode ∧ decodeBus 0x0300 = .rdErrinfo ∧ decodeBus 0x0500 = .rdKcnt ∧
  decodeBus 0x0700 = .rdDcnt ∧ (∀ j : BitVec 4, decodeBus (0x1000 ||| (j.setWidth 14 <<< 8)) = .rdDout j) ∧
  ∀ s : State,
    exec .rdErrcode s = .next { s with rdata := some s.errcode, reads := s.reads ++ [s.errcode] } ∧
    exec .rdErrinfo s = .next { s with rdata := some s.errinfo, reads := s.reads ++ [s.errinfo] } ∧
    exec .rdKcnt s = .next { s with rdata := some (s.kcnt.setWidth 8), reads := s.reads ++ [s.kcnt.setWidth 8] } ∧
    exec .rdDcnt s = .next { s with rdata := some (s.dcnt.setWidth 8), reads := s.reads ++ [s.dcnt.setWidth 8] } ∧
    ∀ j : BitVec 4, exec (.rdDout j) s =
      .next { s with rdata := some s.out[j.toNat], reads := s.reads ++ [s.out[j.toNat]] }

/-- R116, R36: an ignored read returns 0x00 and an ignored write does nothing; the addresses are those of R36. -/
def Obligations.IgnoredAccessesDoNothing : Prop :=
  (∀ (w : Bool) (a : BitVec 5) (d : Byte) (s : State), exec (.accessIgnored w a d) s =
    .next (if w then s else { s with rdata := some 0x00, reads := s.reads ++ [0x00] })) ∧
  (∀ a : BitVec 5, a.toNat = 0 ∨ a.toNat = 4 ∨ a.toNat = 6 ∨ (8 ≤ a.toNat ∧ a.toNat ≤ 15) →
    decodeRead a = .accessIgnored false a 0x00) ∧
  (∀ (a : BitVec 5) (d : Byte), a.toNat ≠ 0 → a.toNat ≠ 4 → a.toNat ≠ 6 → decodeWrite a d = .accessIgnored true a d)

/-- R26, R49: a read at any register's address returns that register's value, 0x00 for a write-only one, and no read at
any of the 32 addresses changes any state. -/
def Obligations.ReadsFollowTheRegisterMap : Prop :=
  (∀ (r : Reg) (s : State),
    exec (decodeRead r.addr) s = .next { s with rdata := some (r.value s), reads := s.reads ++ [r.value s] }) ∧
  (∀ (a : BitVec 5) (s : State), ∃ d,
    exec (decodeRead a) s = .next { s with rdata := some d, reads := s.reads ++ [d] })

/-! Micro-operations -/

/-- R83: KXW with KI in its range: the word at index KI from the two words it reads, KI + 1, and with the last word the
completion of R84; nothing else changes. That the round constant is in byte 0 of its word is R79's general knowledge
(assumption 10); that the engine runs KXW only during KEYEXP is not said here (assumption 8). -/
def Obligations.KxwFollowsItsRule : Prop :=
  decodeUop 0x10 = .ok .kxw ∧
  ∀ (s : State) (ks : KeySize), KeySize.ofCode s.ksz = some ks → ks.nk ≤ s.ki.toNat →
    s.ki.toNat < 4 * (ks.nr + 1) →
    ∃ w : Vector Word 60,
      exec .kxw s = .next
        (if s.ki.toNat + 1 = 4 * (ks.nr + 1) then
          { s with W := w, ki := s.ki + 1, phase := .idle, keyReady := true }
        else { s with W := w, ki := s.ki + 1 }) ∧
      (s.ki + 1).toNat = s.ki.toNat + 1 ∧
      (∀ i, i < 60 → i ≠ s.ki.toNat → wordAt w i = wordAt s.W i) ∧
      ∀ j : Fin 4, (wordAt w s.ki.toNat).byte j = (wordAt s.W (s.ki.toNat - ks.nk)).byte j ^^^
        (if s.ki.toNat % ks.nk = 0 then
          sbox ((wordAt s.W (s.ki.toNat - 1)).byte (j + 1)) ^^^ (if j = 0 then rc (s.ki.toNat / ks.nk) else 0x00)
        else if ks.nk = 8 ∧ s.ki.toNat % ks.nk = 4 then sbox ((wordAt s.W (s.ki.toNat - 1)).byte j)
        else (wordAt s.W (s.ki.toNat - 1)).byte j)

/-- R86, R87, R96: SB and ISB before the last micro-op: every byte of S through its table, UPC + 1, nothing else. -/
def Obligations.SubBytesFollowsItsRule : Prop :=
  decodeUop 0x30 = .ok .sb ∧ decodeUop 0x40 = .ok .isb ∧
  ∀ (s : State) (ks : KeySize), KeySize.ofCode s.ksz = some ks → s.upc.toNat + 1 ≠ 4 * ks.nr →
    (∃ m : Mat, exec .sb s = .next { s with S := m, upc := s.upc + 1 } ∧
      ∀ r c, m.get r c = sbox (s.S.get r c)) ∧
    (∃ m : Mat, exec .isb s = .next { s with S := m, upc := s.upc + 1 } ∧
      ∀ r c, m.get r c = isbox (s.S.get r c))

/-- R88, R89, R96: SR and ISR before the last micro-op: row r shifted left, or right, by r positions. -/
def Obligations.ShiftRowsFollowsItsRule : Prop :=
  decodeUop 0x50 = .ok .sr ∧ decodeUop 0x60 = .ok .isr ∧
  ∀ (s : State) (ks : KeySize), KeySize.ofCode s.ksz = some ks → s.upc.toNat + 1 ≠ 4 * ks.nr →
    (∃ m : Mat, exec .sr s = .next { s with S := m, upc := s.upc + 1 } ∧
      ∀ r c k : Fin 4, k.val = (c.val + r.val) % 4 → m.get r c = s.S.get r k) ∧
    (∃ m : Mat, exec .isr s = .next { s with S := m, upc := s.upc + 1 } ∧
      ∀ r c k : Fin 4, k.val = (c.val + 4 - r.val) % 4 → m.get r c = s.S.get r k)

/-- R90, R91, R96: MC and IMC before the last micro-op: every column multiplied by the forward, or inverse, matrix. -/
def Obligations.MixColumnsFollowsItsRule : Prop :=
  decodeUop 0x70 = .ok .mc ∧ decodeUop 0x80 = .ok .imc ∧
  ∀ (s : State) (ks : KeySize), KeySize.ofCode s.ksz = some ks → s.upc.toNat + 1 ≠ 4 * ks.nr →
    (∃ m : Mat, exec .mc s = .next { s with S := m, upc := s.upc + 1 } ∧
      ∀ c : Fin 4,
        m.get 0 c = gmul 0x02 (s.S.get 0 c) ^^^ gmul 0x03 (s.S.get 1 c) ^^^ gmul 0x01 (s.S.get 2 c) ^^^ gmul 0x01 (s.S.get 3 c) ∧
        m.get 1 c = gmul 0x01 (s.S.get 0 c) ^^^ gmul 0x02 (s.S.get 1 c) ^^^ gmul 0x03 (s.S.get 2 c) ^^^ gmul 0x01 (s.S.get 3 c) ∧
        m.get 2 c = gmul 0x01 (s.S.get 0 c) ^^^ gmul 0x01 (s.S.get 1 c) ^^^ gmul 0x02 (s.S.get 2 c) ^^^ gmul 0x03 (s.S.get 3 c) ∧
        m.get 3 c = gmul 0x03 (s.S.get 0 c) ^^^ gmul 0x01 (s.S.get 1 c) ^^^ gmul 0x01 (s.S.get 2 c) ^^^ gmul 0x02 (s.S.get 3 c)) ∧
    (∃ m : Mat, exec .imc s = .next { s with S := m, upc := s.upc + 1 } ∧
      ∀ c : Fin 4,
        m.get 0 c = gmul 0x0e (s.S.get 0 c) ^^^ gmul 0x0b (s.S.get 1 c) ^^^ gmul 0x0d (s.S.get 2 c) ^^^ gmul 0x09 (s.S.get 3 c) ∧
        m.get 1 c = gmul 0x09 (s.S.get 0 c) ^^^ gmul 0x0e (s.S.get 1 c) ^^^ gmul 0x0b (s.S.get 2 c) ^^^ gmul 0x0d (s.S.get 3 c) ∧
        m.get 2 c = gmul 0x0d (s.S.get 0 c) ^^^ gmul 0x09 (s.S.get 1 c) ^^^ gmul 0x0e (s.S.get 2 c) ^^^ gmul 0x0b (s.S.get 3 c) ∧
        m.get 3 c = gmul 0x0b (s.S.get 0 c) ^^^ gmul 0x0d (s.S.get 1 c) ^^^ gmul 0x09 (s.S.get 2 c) ^^^ gmul 0x0e (s.S.get 3 c))

/-- R92, R96: ARK(rnd) before the last micro-op: byte r of schedule word 4 rnd + c into state byte (r, c). -/
def Obligations.AddRoundKeyFollowsItsRule : Prop :=
  (∀ rnd : Fin 15, decodeUop (0x20 ||| BitVec.ofNat 8 rnd.val) = .ok (.ark rnd)) ∧
  ∀ (rnd : Fin 15) (s : State) (ks : KeySize), KeySize.ofCode s.ksz = some ks → s.upc.toNat + 1 ≠ 4 * ks.nr →
    ∃ m : Mat, exec (.ark rnd) s = .next { s with S := m, upc := s.upc + 1 } ∧
      ∀ (r c : Fin 4) (h : 4 * rnd.val + c.val < 60), m.get r c = s.S.get r c ^^^ (s.W[4 * rnd.val + c.val]).byte r

/-- R97: the last micro-op of a micro-program completes the command in its own step: OUT takes the State it computes
(the one it gives where it is not the last), OUT_VALID is set, the engine is idle, S is cleared; nothing else. -/
def Obligations.TheLastMicroOpCompletesTheCommand : Prop :=
  ∀ (i : Instr) (s : State) (ks : KeySize), isRoundOp i = true → KeySize.ofCode s.ksz = some ks →
    s.upc.toNat + 1 = 4 * ks.nr →
    ∃ (m : Mat) (o : Vector Byte 16),
      exec i { s with upc := 0 } = .next { s with S := m, upc := 1 } ∧
      exec i s = .next { s with out := o, outValid := true, phase := .idle, S := Mat.zero, upc := s.upc + 1 } ∧
      ∀ r c : Fin 4, byteAt o (r.val + 4 * c.val) = m.get r c

/-- The model's choice (assumption 5), for states no run from reset reaches: with KSZ = 0b11 no micro-operation has an
Nr, and outside its range of KI KXW has no word to compute; each stops with a fault of its own name. -/
def Obligations.MicroOpsStopWithoutAKeySizeOrAnIndex : Prop :=
  (∀ (i : Instr) (s : State), i.format = .uop → s.ksz = 0b11 → exec i s = .fault .noKeySize) ∧
  (∀ (s : State) (ks : KeySize), KeySize.ofCode s.ksz = some ks →
    s.ki.toNat < ks.nk ∨ 4 * (ks.nr + 1) ≤ s.ki.toNat → exec .kxw s = .fault (.scheduleIndex s.ki))

/-! Functions -/

/-- R70: xtime. -/
def Obligations.XtimeShiftsAndReduces : Prop :=
  ∀ p : Byte, (xtime p).toNat = (2 * p.toNat % 256) ^^^ (if 128 ≤ p.toNat then 0x1B else 0) ∧ xtime p = gmul 0x02 p

/-- R71: gmul is polynomial multiplication modulo the reduction polynomial 0x11B. -/
def Obligations.GmulIsPolynomialMultiplicationModuloTheReductionPolynomial : Prop :=
  ∀ a b : Byte, ∃ q : Byte, polyMul (a.setWidth 16) b = (gmul a b).setWidth 16 ^^^ polyMul 0x11B q

/-- R72: the laws of gmul that the source requires. -/
def Obligations.GmulIsCommutativeAndDistributesOverXor : Prop :=
  (∀ a b, gmul a b = gmul b a) ∧ (∀ a b c, gmul a (b ^^^ c) = gmul a b ^^^ gmul a c) ∧
  (∀ a, gmul a 0x00 = 0x00) ∧ (∀ a, gmul a 0x01 = a)

/-- R72: the laws of gmul that the spec adds from general knowledge. -/
def Obligations.GmulIsAssociativeWithUniqueInverses : Prop :=
  (∀ a b c, gmul (gmul a b) c = gmul a (gmul b c)) ∧ (∀ a, a ≠ 0x00 → ∃! b, gmul a b = 0x01)

/-- R75: the two S-boxes are permutations and inverses of each other. -/
def Obligations.SboxesAreInversePermutations : Prop :=
  (∀ x, isbox (sbox x) = x) ∧ (∀ x, sbox (isbox x) = x) ∧ Function.Bijective sbox ∧ Function.Bijective isbox

/-- R77: the S-box table equals the standard construction from the multiplicative inverse. -/
def Obligations.SboxIsTheAffineMapOfTheInverse : Prop :=
  ∀ x b : Byte, (x = 0x00 → b = 0x00) → (x ≠ 0x00 → gmul x b = 0x01) →
    sbox x = b ^^^ b.rotateLeft 1 ^^^ b.rotateLeft 2 ^^^ b.rotateLeft 3 ^^^ b.rotateLeft 4 ^^^ 0x63

/-- R79: Rcon. -/
def Obligations.RconIsThePowersOfTwo : Prop :=
  rc 0 = 0x00 ∧ rc 1 = 0x01 ∧ (∀ i, 1 ≤ i → i < 10 → rc (i + 1) = xtime (rc i)) ∧ rc 10 = 0x36 ∧
  ∀ i, i ≤ 10 → rcon i = ⟨rc i, 0x00, 0x00, 0x00⟩

/-- R80, R81: RotWord and SubWord. -/
def Obligations.RotWordAndSubWordFollowTheirRules : Prop :=
  ∀ w : Word, rotWord w = ⟨w.b1, w.b2, w.b3, w.b0⟩ ∧ ∀ j, (subWord w).byte j = sbox (w.byte j)

/-- R47: the column-major layout of a block in the State, and that loading and serializing undo each other. -/
def Obligations.LoadingAndSerializingAreColumnMajorAndInverse : Prop :=
  (∀ (b : Vector Byte 16) (r c : Fin 4), (loadMat b).get r c = byteAt b (r.val + 4 * c.val)) ∧
  (∀ (m : Mat) (r c : Fin 4), byteAt (storeMat m) (r.val + 4 * c.val) = m.get r c) ∧
  (∀ b, storeMat (loadMat b) = b) ∧ (∀ m, loadMat (storeMat m) = m)

/-- R93: the round-trip laws of the round transformations. -/
def Obligations.RoundTransformationsUndoTheirInverses : Prop :=
  ∀ m : Mat, invSubBytes (subBytes m) = m ∧ subBytes (invSubBytes m) = m ∧
    invShiftRows (shiftRows m) = m ∧ shiftRows (invShiftRows m) = m ∧
    invMixColumns (mixColumns m) = m ∧ mixColumns (invMixColumns m) = m ∧
    ∀ w rnd, addRoundKey w rnd (addRoundKey w rnd m) = m

/-- R82: the expansion: its length, its first Nk words, and every later word from the two before it. -/
def Obligations.ExpandFollowsTheKeyScheduleRecurrence : Prop :=
  ∀ (ks : KeySize) (k : Vector Byte 32),
    (expand ks k).length = 4 * (ks.nr + 1) ∧
    (∀ i, i < ks.nk → (expand ks k)[i]? =
      some ⟨byteAt k (4 * i), byteAt k (4 * i + 1), byteAt k (4 * i + 2), byteAt k (4 * i + 3)⟩) ∧
    ∀ i prev back, ks.nk ≤ i → i < 4 * (ks.nr + 1) → (expand ks k)[i - 1]? = some prev →
      (expand ks k)[i - ks.nk]? = some back →
      (expand ks k)[i]? = some (back.xor
        (if i % ks.nk = 0 then (subWord (rotWord prev)).xor (rcon (i / ks.nk))
        else if 6 < ks.nk ∧ i % ks.nk = 4 then subWord prev else prev))

/-- R94, R95: the micro-programs, index by index, for every round count. -/
def Obligations.MicroProgramsListTheRoundsInOrder : Prop :=
  ∀ nr : Nat, 1 ≤ nr → nr ≤ 14 →
    (uprogEnc nr).length = 4 * nr ∧ (uprogEnc nr)[0]? = some 0x20 ∧
    (∀ r, 1 ≤ r → r < nr →
      (uprogEnc nr)[4 * r - 3]? = some 0x30 ∧ (uprogEnc nr)[4 * r - 2]? = some 0x50 ∧
      (uprogEnc nr)[4 * r - 1]? = some 0x70 ∧ (uprogEnc nr)[4 * r]? = some (0x20 ||| BitVec.ofNat 8 r)) ∧
    (uprogEnc nr)[4 * nr - 3]? = some 0x30 ∧ (uprogEnc nr)[4 * nr - 2]? = some 0x50 ∧
    (uprogEnc nr)[4 * nr - 1]? = some (0x20 ||| BitVec.ofNat 8 nr) ∧
    (uprogDec nr).length = 4 * nr ∧ (uprogDec nr)[0]? = some (0x20 ||| BitVec.ofNat 8 nr) ∧
    (uprogDec nr)[1]? = some 0x60 ∧ (uprogDec nr)[2]? = some 0x40 ∧
    (∀ j, 1 ≤ j → j < nr →
      (uprogDec nr)[4 * j - 1]? = some (0x20 ||| BitVec.ofNat 8 (nr - j)) ∧ (uprogDec nr)[4 * j]? = some 0x80 ∧
      (uprogDec nr)[4 * j + 1]? = some 0x60 ∧ (uprogDec nr)[4 * j + 2]? = some 0x40) ∧
    (uprogDec nr)[4 * nr - 1]? = some 0x20

/-- R101 (a): decryption undoes encryption under every schedule, every round count and every block. A round count past
14, which no key size has, reads schedule words past 59 as zero (assumption 9). -/
def Obligations.DecryptionUndoesEncryption : Prop :=
  ∀ (w : Vector Word 60) (nr : Nat) (b : Vector Byte 16), invCipher w nr (cipher w nr b) = b

/-! Host programs -/

/-- R68, with R67 and R63: what the pseudo-instructions' expansions decode to. -/
def Obligations.PseudoInstructionsExpandToTheirTransactions : Prop :=
  (Pseudo.keyexp .k128).expand.map decodeBus = [.keyexp 0b00] ∧
  (Pseudo.keyexp .k192).expand.map decodeBus = [.keyexp 0b01] ∧
  (Pseudo.keyexp .k256).expand.map decodeBus = [.keyexp 0b10] ∧
  Pseudo.encrypt.expand.map decodeBus = [.encrypt] ∧ Pseudo.decrypt.expand.map decodeBus = [.decrypt] ∧
  (∀ bytes, (Pseudo.loadKey bytes).expand.map decodeBus = bytes.map .wrKeyin) ∧
  (∀ bytes, (Pseudo.loadBlk bytes).expand.map decodeBus = bytes.map .wrDin) ∧
  (∀ n, (Pseudo.waitIdle n).expand.map decodeBus = List.replicate (n + 1) .rdStatus) ∧
  Pseudo.readout.expand.map decodeBus = (List.range 16).map (fun j => .rdDout (BitVec.ofNat 4 j)) ∧
  Pseudo.check.expand.map decodeBus = [.rdErrcode, .rdErrinfo]

/-! Whole-machine rules -/

/-- R18 to R40: which instructions may write each register; every other instruction leaves it as it was. -/
def Obligations.EachRegisterIsWrittenOnlyByItsRules : Prop :=
  ∀ (i : Instr) (s t : State), exec i s = .next t →
    (isCommand i = false → t.errcode = s.errcode ∧ t.errinfo = s.errinfo) ∧
    ((∀ c, i ≠ .keyexp c) → t.ksz = s.ksz) ∧
    ((∀ c, i ≠ .keyexp c) → i ≠ .kxw → t.W = s.W ∧ t.ki = s.ki ∧ t.keyReady = s.keyReady) ∧
    ((∀ c, i ≠ .keyexp c) → (∀ d, i ≠ .wrKeyin d) → t.kbuf = s.kbuf ∧ t.kcnt = s.kcnt) ∧
    (i ≠ .encrypt → i ≠ .decrypt → (∀ d, i ≠ .wrDin d) → t.dbuf = s.dbuf ∧ t.dcnt = s.dcnt) ∧
    (i ≠ .encrypt → i ≠ .decrypt → isRoundOp i = false →
      t.S = s.S ∧ t.upc = s.upc ∧ t.out = s.out ∧ t.outValid = s.outValid) ∧
    (isCommand i = false → i.format = .bus → t.phase = s.phase) ∧
    (isRead i = false → t.reads = s.reads ∧ t.rdata = s.rdata) ∧
    t.sched = s.sched

/-- R125: every CTRL write while the engine runs is refused with BUSY, whatever its byte, and changes nothing else; and
no host step at all changes S, W, KSZ, KI, UPC, PHASE or KEY_READY while the engine is busy, nor the cleared OUT and
OUT_VALID of a running command. -/
def Obligations.NoHostStepDisturbsARunningCommand : Prop :=
  (∀ (d : Byte) (s : State), s.phase ≠ .idle →
    exec (decodeWrite 0x00 d) s = .next { s with errcode := 0x01, errinfo := 0x00 }) ∧
  ∀ (w : BitVec 14) (s : State), s.phase ≠ .idle →
    ∃ t, exec (decodeBus w) s = .next t ∧ t.S = s.S ∧ t.W = s.W ∧ t.ksz = s.ksz ∧ t.ki = s.ki ∧ t.upc = s.upc ∧
      t.phase = s.phase ∧ t.keyReady = s.keyReady ∧ t.out = s.out ∧ t.outValid = s.outValid

/-- R18: PHASE leaves IDLE only when a CTRL write is accepted, and returns to IDLE only at an engine step that completes
the command, or at reset. -/
def Obligations.PhaseChangesOnlyByAcceptanceCompletionOrReset : Prop :=
  ∀ s t : State, step s = .next t → t.phase ≠ s.phase →
    (s.phase = .idle → ∃ p rest, s.sched = .edge p :: rest ∧ p.rst = false ∧ p.wrEn = true ∧ p.addr = 0x00 ∧
      t.errcode = 0x00 ∧ t.errinfo = 0x00) ∧
    (s.phase ≠ .idle → t.phase = .idle ∧
      ((∃ p rest, s.sched = .edge p :: rest ∧ p.rst = true) ∨
        ((s.sched = [] ∨ ∃ rest, s.sched = .engine :: rest) ∧
          ((s.phase = .keyexp ∧ t.keyReady = true) ∨ (s.phase ≠ .keyexp ∧ t.outValid = true)))))

/-- R41, R137: what a host transaction does to everything the host can read depends only on what the host can read:
never on KBUF, DBUF, W, S, UPC, KI or which command is running. -/
def Obligations.HostTransactionsDependOnlyOnWhatTheHostCanRead : Prop :=
  ∀ (w : BitVec 14) (s t : State), SameView s t →
    ∃ s' t', exec (decodeBus w) s = .next s' ∧ exec (decodeBus w) t = .next t' ∧ SameView s' t' ∧
      (busW w = false → s'.rdata = t'.rdata)

/-- R131, R148: a CTRL write and the completing engine step in one cycle, in both orders: refused with BUSY before the
completion, accepted after it. -/
def Obligations.ACommandAtCompletionIsRefusedOrAcceptedByOrder : Prop :=
  ∀ (s : State) (ks : KeySize) (rest : List Turn), s.phase = .enc → KeySize.ofCode s.ksz = some ks →
    s.upc.toNat + 1 = 4 * ks.nr → s.keyReady = true → s.dcnt.toNat = 16 →
    (∃ t, RunsTo 2 { s with sched := .edge (Pins.ofWord 0x2003) :: .engine :: rest } t ∧
      t.phase = .idle ∧ t.outValid = true ∧ t.errcode = 0x01 ∧ t.dbuf = s.dbuf ∧ t.dcnt = s.dcnt ∧ t.sched = rest) ∧
    (∃ t, RunsTo 2 { s with sched := .engine :: .edge (Pins.ofWord 0x2003) :: rest } t ∧
      t.phase = .dec ∧ t.outValid = false ∧ t.errcode = 0x00 ∧ t.S = loadMat s.dbuf ∧ t.dcnt = 0 ∧ t.sched = rest)

/-- The reset state satisfies the invariant. -/
def Obligations.TheInvariantHoldsAtReset : Prop := Inv State.reset

/-- R17 to R40: from every state that satisfies the invariant, every step that answers a next state keeps it. -/
def Obligations.EveryStepKeepsTheInvariant : Prop :=
  ∀ s t : State, Inv s → step s = .next t → Inv t

/-- R103, R120: from every state that satisfies the invariant every step answers a next state: no fault, no refusal,
no hang. -/
def Obligations.NoStepFaultsOrRefuses : Prop :=
  ∀ s : State, Inv s → ∃ t, step s = .next t

/-- R154: each engine step takes a running command one step closer to completion, and no host step takes it further
away or nearer. An empty schedule gives the engine its turn (assumption 1). -/
def Obligations.EachEngineStepBringsCompletionOneNearer : Prop :=
  ∀ s t : State, Inv s → s.phase ≠ .idle → step s = .next t →
    ((s.sched = [] ∨ ∃ rest, s.sched = .engine :: rest) → stepsLeft t + 1 = stepsLeft s) ∧
    (∀ p rest, s.sched = .edge p :: rest → p.rst = false → stepsLeft t = stepsLeft s ∧ t.phase = s.phase)

/-- R154: a running command completes unless a reset intervenes. In a run of `step`, whatever host transactions the
schedule holds, within one step for each turn of the schedule and one for each engine step left (an empty schedule
gives the engine its turn: assumption 1). In every infinite execution that is fair in the sense of R53, however many
host steps there are between the engine's. -/
def Obligations.EveryRunningCommandCompletes : Prop :=
  (∀ s : State, Inv s → s.phase ≠ .idle → NoReset s.sched →
    ∃ n t, n ≤ s.sched.length + stepsLeft s ∧ FirstIdle n s t) ∧
  ∀ e : Execution, e.Admitted → e.Fair → e.NoReset → ∀ n, Inv (e.state n) →
    ∃ m, n ≤ m ∧ (e.state m).phase = .idle

/-- R153: the engine steps from acceptance to completion: 40, 46 or 52 for KEYEXP and 40, 48 or 56 for ENCRYPT and
DECRYPT, in a run without host steps between. -/
def Obligations.CommandsTakeTheirStepCounts : Prop :=
  (∀ (c : BitVec 2) (s t : State) (n : Nat), s.sched = [] → s.phase = .idle →
    (c = 0b00 ∧ s.kcnt = 16 ∧ n = 40) ∨ (c = 0b01 ∧ s.kcnt = 24 ∧ n = 46) ∨ (c = 0b10 ∧ s.kcnt = 32 ∧ n = 52) →
    exec (.keyexp c) s = .next t → ∃ u, FirstIdle n t u) ∧
  (∀ (i : Instr) (s t : State) (n : Nat), i = .encrypt ∨ i = .decrypt → s.sched = [] → s.phase = .idle →
    s.keyReady = true → s.dcnt = 16 →
    (s.ksz = 0b00 ∧ n = 40) ∨ (s.ksz = 0b01 ∧ n = 48) ∨ (s.ksz = 0b10 ∧ n = 56) →
    exec i s = .next t → ∃ u, FirstIdle n t u)

/-- R85: a KEYEXP that is accepted and runs to completion leaves the expansion of its key in W, whatever host steps are
interleaved. -/
def Obligations.ACompletedKeyexpHoldsTheExpansionOfItsKey : Prop :=
  ∀ (c : BitVec 2) (ks : KeySize) (s t u : State) (n : Nat),
    s.phase = .idle → KeySize.ofCode c = some ks → s.kcnt.toNat = 4 * ks.nk → NoReset s.sched →
    exec (.keyexp c) s = .next t → FirstIdle n t u →
    u.keyReady = true ∧ u.ksz = c ∧ u.W.toList.take (4 * (ks.nr + 1)) = expand ks s.kbuf

/-- R99: an ENCRYPT that is accepted and runs to completion leaves Cipher of its block in OUT, whatever host steps are
interleaved; until then OUT is all zeros and OUT_VALID is 0 (R149). -/
def Obligations.ACompletedEncryptionLeavesTheCipherOfItsBlock : Prop :=
  ∀ (ks : KeySize) (s t u : State) (n : Nat),
    s.phase = .idle → s.keyReady = true → s.dcnt.toNat = 16 → KeySize.ofCode s.ksz = some ks → NoReset s.sched →
    exec .encrypt s = .next t → FirstIdle n t u →
    u.out = cipher s.W ks.nr s.dbuf ∧ u.outValid = true ∧
    ∀ m v, m < n → RunsTo m t v → v.outValid = false ∧ v.out = Vector.replicate 16 0x00

/-- R100: a DECRYPT that is accepted and runs to completion leaves InvCipher of its block in OUT, whatever host steps
are interleaved; until then OUT is all zeros and OUT_VALID is 0 (R149). -/
def Obligations.ACompletedDecryptionLeavesTheInverseCipherOfItsBlock : Prop :=
  ∀ (ks : KeySize) (s t u : State) (n : Nat),
    s.phase = .idle → s.keyReady = true → s.dcnt.toNat = 16 → KeySize.ofCode s.ksz = some ks → NoReset s.sched →
    exec .decrypt s = .next t → FirstIdle n t u →
    u.out = invCipher s.W ks.nr s.dbuf ∧ u.outValid = true ∧
    ∀ m v, m < n → RunsTo m t v → v.outValid = false ∧ v.out = Vector.replicate 16 0x00
end

