-- ==== Sys2Proof/Laws/Data.lean ====
section
/-! SUPPORT. The small lemmas of the data: words and matrices, the internal arrays, key sizes, sequencing words. -/

namespace Sys2Proof

@[simp] theorem Word.byte_ofFn (f : Fin 4 → Byte) (j : Fin 4) : (Word.ofFn f).byte j = f j := by
  match j with
  | 0 => rfl
  | 1 => rfl
  | 2 => rfl
  | 3 => rfl

@[simp] theorem Word.byte_xor (u v : Word) (j : Fin 4) : (u.xor v).byte j = u.byte j ^^^ v.byte j := by
  match j with
  | 0 => rfl
  | 1 => rfl
  | 2 => rfl
  | 3 => rfl

/-- Two words with equal bytes are equal. -/
theorem Word.ext_byte {u v : Word} (h : ∀ j, u.byte j = v.byte j) : u = v :=
  Word.ext (h 0) (h 1) (h 2) (h 3)

@[simp] theorem Mat.get_ofFn (f : Fin 4 → Fin 4 → Byte) (r c : Fin 4) : (Mat.ofFn f).get r c = f r c := by
  match c with
  | 0 => exact Word.byte_ofFn (fun r => f r 0) r
  | 1 => exact Word.byte_ofFn (fun r => f r 1) r
  | 2 => exact Word.byte_ofFn (fun r => f r 2) r
  | 3 => exact Word.byte_ofFn (fun r => f r 3) r

theorem Mat.byte_col (m : Mat) (r c : Fin 4) : (m.col c).byte r = m.get r c := rfl

@[simp] theorem Mat.get_zero (r c : Fin 4) : Mat.zero.get r c = 0x00 := by
  revert r c; decide

/-- Two matrices with equal entries are equal. -/
theorem Mat.ext_get {m n : Mat} (h : ∀ r c, m.get r c = n.get r c) : m = n :=
  Mat.ext (Word.ext_byte fun r => h r 0) (Word.ext_byte fun r => h r 1) (Word.ext_byte fun r => h r 2)
    (Word.ext_byte fun r => h r 3)

/-- R25: exactly the code 0b11 has no key size. -/
theorem KeySize.ofCode_eq_none {c : BitVec 2} : KeySize.ofCode c = none ↔ c = 0b11 := by
  revert c; decide

theorem KeySize.ofCode_isSome {c : BitVec 2} (h : c ≠ 0b11) : ∃ ks, KeySize.ofCode c = some ks :=
  Option.ne_none_iff_exists'.mp fun hn => h (KeySize.ofCode_eq_none.mp hn)

/-- The bounds of the key-size constants that index arithmetic needs. -/
theorem KeySize.bounds (ks : KeySize) :
    4 ≤ ks.nk ∧ ks.nk ≤ 8 ∧ 10 ≤ ks.nr ∧ ks.nr ≤ 14 ∧ ks.nk < ks.scheduleLen ∧ ks.scheduleLen ≤ 60 ∧
      0 < ks.programLen ∧ ks.programLen ≤ 56 := by
  cases ks <;> decide

theorem KeySize.scheduleLen_eq (ks : KeySize) : ks.scheduleLen = 4 * (ks.nr + 1) := rfl

theorem KeySize.programLen_eq (ks : KeySize) : ks.programLen = 4 * ks.nr := rfl

namespace Machine

theorem byteAt_of_lt {n : Nat} (v : Vector Byte n) {i : Nat} (h : i < n) : byteAt v i = v[i] := dif_pos h

theorem byteAt_of_ge {n : Nat} (v : Vector Byte n) {i : Nat} (h : n ≤ i) : byteAt v i = 0x00 :=
  dif_neg (by omega)

@[simp] theorem byteAt_zeros (n i : Nat) : byteAt (Vector.replicate n 0#8) i = 0#8 := by
  unfold byteAt; split <;> simp

@[simp] theorem byteAt_ofFn {n : Nat} (f : Fin n → Byte) {i : Nat} (h : i < n) :
    byteAt (Vector.ofFn f) i = f ⟨i, h⟩ := by
  simp [byteAt, h]

/-- Reading a byte of an array after a write of one byte. -/
theorem byteAt_setIfInBounds {n : Nat} (v : Vector Byte n) (j i : Nat) (d : Byte) (hj : j < n) :
    byteAt (v.setIfInBounds j d) i = if i = j then d else byteAt v i := by
  unfold byteAt
  split
  · rw [Vector.getElem_setIfInBounds]; simp [eq_comm]
  · rw [if_neg (by omega)]

/-- Two arrays whose bytes read the same are equal. -/
theorem vector_ext_byteAt {n : Nat} {u v : Vector Byte n} (h : ∀ i, i < n → byteAt u i = byteAt v i) : u = v :=
  Vector.ext fun i hi => by simpa [byteAt, hi] using h i hi

theorem wordAt_of_lt (w : Vector Word 60) {i : Nat} (h : i < 60) : wordAt w i = w[i] := dif_pos h

/-- Reading a word of the schedule store after a write of one word. -/
theorem wordAt_setWordAt (w : Vector Word 60) (j i : Nat) (v : Word) (hj : j < 60) :
    wordAt (setWordAt w j v) i = if i = j then v else wordAt w i := by
  unfold wordAt setWordAt
  split
  · rw [Vector.getElem_setIfInBounds]; simp [eq_comm]
  · rw [if_neg (by omega)]

/-- R104: the store after the key columns are loaded. -/
theorem wordAt_loadKeyWords (nk : Nat) (k : Vector Byte 32) (w : Vector Word 60) {i : Nat} (h : i < 60) :
    wordAt (loadKeyWords nk k w) i = if i < nk then keyWord k i else wordAt w i := by
  simp [wordAt, loadKeyWords, h]

@[simp] theorem loadMat_get (b : Vector Byte 16) (r c : Fin 4) :
    (loadMat b).get r c = byteAt b (r.val + 4 * c.val) := Mat.get_ofFn _ r c

theorem byteAt_storeMat (m : Mat) (i : Fin 16) :
    byteAt (storeMat m) i.val = m.get ⟨i.val % 4, by omega⟩ ⟨i.val / 4, by omega⟩ := by
  simp [storeMat, byteAt]

/-- Bounded sequencing counters advance without wrapping (R19, R20). -/
theorem toNat_add_one_of_lt {x : BitVec 6} (h : x.toNat < 63) : (x + 1).toNat = x.toNat + 1 := by
  rw [BitVec.toNat_add]; simp; omega

theorem toNat_ofNat_nk (ks : KeySize) : (BitVec.ofNat 6 ks.nk).toNat = ks.nk := by
  cases ks <;> decide

end Machine

end Sys2Proof
end

