-- ==== Sys2Proof/Laws/State.lean ====
section
/-! SUPPORT. What each named update of the state leaves in each field, one lemma for each pair. -/

namespace Sys2Proof.Machine

variable (s : State)

@[simp] theorem State.reset_phase : State.reset.phase = .idle := rfl
@[simp] theorem State.reset_upc : State.reset.upc = 0 := rfl
@[simp] theorem State.reset_ki : State.reset.ki = 0 := rfl
@[simp] theorem State.reset_ksz : State.reset.ksz = 0b00 := rfl
@[simp] theorem State.reset_keyReady : State.reset.keyReady = false := rfl
@[simp] theorem State.reset_outValid : State.reset.outValid = false := rfl
@[simp] theorem State.reset_errcode : State.reset.errcode = 0x00 := rfl
@[simp] theorem State.reset_errinfo : State.reset.errinfo = 0x00 := rfl
@[simp] theorem State.reset_kbuf : State.reset.kbuf = Vector.replicate 32 0x00 := rfl
@[simp] theorem State.reset_kcnt : State.reset.kcnt = 0 := rfl
@[simp] theorem State.reset_dbuf : State.reset.dbuf = Vector.replicate 16 0x00 := rfl
@[simp] theorem State.reset_dcnt : State.reset.dcnt = 0 := rfl
@[simp] theorem State.reset_W : State.reset.W = Vector.replicate 60 Word.zero := rfl
@[simp] theorem State.reset_S : State.reset.S = Mat.zero := rfl
@[simp] theorem State.reset_out : State.reset.out = Vector.replicate 16 0x00 := rfl
@[simp] theorem State.reset_rdata : State.reset.rdata = none := rfl
@[simp] theorem State.reset_reads : State.reset.reads = [] := rfl
@[simp] theorem State.reset_sched : State.reset.sched = [] := rfl

@[simp] theorem report_phase (code : ErrCode) (info : Byte) : (report code info s).phase = s.phase := rfl
@[simp] theorem report_upc (code : ErrCode) (info : Byte) : (report code info s).upc = s.upc := rfl
@[simp] theorem report_ki (code : ErrCode) (info : Byte) : (report code info s).ki = s.ki := rfl
@[simp] theorem report_ksz (code : ErrCode) (info : Byte) : (report code info s).ksz = s.ksz := rfl
@[simp] theorem report_keyReady (code : ErrCode) (info : Byte) : (report code info s).keyReady = s.keyReady := rfl
@[simp] theorem report_outValid (code : ErrCode) (info : Byte) : (report code info s).outValid = s.outValid := rfl
@[simp] theorem report_errcode (code : ErrCode) (info : Byte) : (report code info s).errcode = code.byte := rfl
@[simp] theorem report_errinfo (code : ErrCode) (info : Byte) : (report code info s).errinfo = info := rfl
@[simp] theorem report_kbuf (code : ErrCode) (info : Byte) : (report code info s).kbuf = s.kbuf := rfl
@[simp] theorem report_kcnt (code : ErrCode) (info : Byte) : (report code info s).kcnt = s.kcnt := rfl
@[simp] theorem report_dbuf (code : ErrCode) (info : Byte) : (report code info s).dbuf = s.dbuf := rfl
@[simp] theorem report_dcnt (code : ErrCode) (info : Byte) : (report code info s).dcnt = s.dcnt := rfl
@[simp] theorem report_W (code : ErrCode) (info : Byte) : (report code info s).W = s.W := rfl
@[simp] theorem report_S (code : ErrCode) (info : Byte) : (report code info s).S = s.S := rfl
@[simp] theorem report_out (code : ErrCode) (info : Byte) : (report code info s).out = s.out := rfl
@[simp] theorem report_rdata (code : ErrCode) (info : Byte) : (report code info s).rdata = s.rdata := rfl
@[simp] theorem report_reads (code : ErrCode) (info : Byte) : (report code info s).reads = s.reads := rfl
@[simp] theorem report_sched (code : ErrCode) (info : Byte) : (report code info s).sched = s.sched := rfl

@[simp] theorem consumeKey_phase : (consumeKey s).phase = s.phase := rfl
@[simp] theorem consumeKey_upc : (consumeKey s).upc = s.upc := rfl
@[simp] theorem consumeKey_ki : (consumeKey s).ki = s.ki := rfl
@[simp] theorem consumeKey_ksz : (consumeKey s).ksz = s.ksz := rfl
@[simp] theorem consumeKey_keyReady : (consumeKey s).keyReady = false := rfl
@[simp] theorem consumeKey_outValid : (consumeKey s).outValid = s.outValid := rfl
@[simp] theorem consumeKey_errcode : (consumeKey s).errcode = s.errcode := rfl
@[simp] theorem consumeKey_errinfo : (consumeKey s).errinfo = s.errinfo := rfl
@[simp] theorem consumeKey_kbuf : (consumeKey s).kbuf = Vector.replicate 32 0x00 := rfl
@[simp] theorem consumeKey_kcnt : (consumeKey s).kcnt = 0 := rfl
@[simp] theorem consumeKey_dbuf : (consumeKey s).dbuf = s.dbuf := rfl
@[simp] theorem consumeKey_dcnt : (consumeKey s).dcnt = s.dcnt := rfl
@[simp] theorem consumeKey_W : (consumeKey s).W = s.W := rfl
@[simp] theorem consumeKey_S : (consumeKey s).S = s.S := rfl
@[simp] theorem consumeKey_out : (consumeKey s).out = s.out := rfl
@[simp] theorem consumeKey_rdata : (consumeKey s).rdata = s.rdata := rfl
@[simp] theorem consumeKey_reads : (consumeKey s).reads = s.reads := rfl
@[simp] theorem consumeKey_sched : (consumeKey s).sched = s.sched := rfl

@[simp] theorem consumeBlock_phase : (consumeBlock s).phase = s.phase := rfl
@[simp] theorem consumeBlock_upc : (consumeBlock s).upc = s.upc := rfl
@[simp] theorem consumeBlock_ki : (consumeBlock s).ki = s.ki := rfl
@[simp] theorem consumeBlock_ksz : (consumeBlock s).ksz = s.ksz := rfl
@[simp] theorem consumeBlock_keyReady : (consumeBlock s).keyReady = s.keyReady := rfl
@[simp] theorem consumeBlock_outValid : (consumeBlock s).outValid = false := rfl
@[simp] theorem consumeBlock_errcode : (consumeBlock s).errcode = s.errcode := rfl
@[simp] theorem consumeBlock_errinfo : (consumeBlock s).errinfo = s.errinfo := rfl
@[simp] theorem consumeBlock_kbuf : (consumeBlock s).kbuf = s.kbuf := rfl
@[simp] theorem consumeBlock_kcnt : (consumeBlock s).kcnt = s.kcnt := rfl
@[simp] theorem consumeBlock_dbuf : (consumeBlock s).dbuf = Vector.replicate 16 0x00 := rfl
@[simp] theorem consumeBlock_dcnt : (consumeBlock s).dcnt = 0 := rfl
@[simp] theorem consumeBlock_W : (consumeBlock s).W = s.W := rfl
@[simp] theorem consumeBlock_S : (consumeBlock s).S = s.S := rfl
@[simp] theorem consumeBlock_out : (consumeBlock s).out = Vector.replicate 16 0x00 := rfl
@[simp] theorem consumeBlock_rdata : (consumeBlock s).rdata = s.rdata := rfl
@[simp] theorem consumeBlock_reads : (consumeBlock s).reads = s.reads := rfl
@[simp] theorem consumeBlock_sched : (consumeBlock s).sched = s.sched := rfl

@[simp] theorem pushKey_phase (d : Byte) : (pushKey d s).phase = s.phase := rfl
@[simp] theorem pushKey_upc (d : Byte) : (pushKey d s).upc = s.upc := rfl
@[simp] theorem pushKey_ki (d : Byte) : (pushKey d s).ki = s.ki := rfl
@[simp] theorem pushKey_ksz (d : Byte) : (pushKey d s).ksz = s.ksz := rfl
@[simp] theorem pushKey_keyReady (d : Byte) : (pushKey d s).keyReady = s.keyReady := rfl
@[simp] theorem pushKey_outValid (d : Byte) : (pushKey d s).outValid = s.outValid := rfl
@[simp] theorem pushKey_errcode (d : Byte) : (pushKey d s).errcode = s.errcode := rfl
@[simp] theorem pushKey_errinfo (d : Byte) : (pushKey d s).errinfo = s.errinfo := rfl
@[simp] theorem pushKey_kbuf (d : Byte) : (pushKey d s).kbuf = if s.kcnt.toNat < 32 then s.kbuf.setIfInBounds s.kcnt.toNat d else s.kbuf := rfl
@[simp] theorem pushKey_kcnt (d : Byte) : (pushKey d s).kcnt = if s.kcnt.toNat < 63 then s.kcnt + 1 else s.kcnt := rfl
@[simp] theorem pushKey_dbuf (d : Byte) : (pushKey d s).dbuf = s.dbuf := rfl
@[simp] theorem pushKey_dcnt (d : Byte) : (pushKey d s).dcnt = s.dcnt := rfl
@[simp] theorem pushKey_W (d : Byte) : (pushKey d s).W = s.W := rfl
@[simp] theorem pushKey_S (d : Byte) : (pushKey d s).S = s.S := rfl
@[simp] theorem pushKey_out (d : Byte) : (pushKey d s).out = s.out := rfl
@[simp] theorem pushKey_rdata (d : Byte) : (pushKey d s).rdata = s.rdata := rfl
@[simp] theorem pushKey_reads (d : Byte) : (pushKey d s).reads = s.reads := rfl
@[simp] theorem pushKey_sched (d : Byte) : (pushKey d s).sched = s.sched := rfl

@[simp] theorem pushBlock_phase (d : Byte) : (pushBlock d s).phase = s.phase := rfl
@[simp] theorem pushBlock_upc (d : Byte) : (pushBlock d s).upc = s.upc := rfl
@[simp] theorem pushBlock_ki (d : Byte) : (pushBlock d s).ki = s.ki := rfl
@[simp] theorem pushBlock_ksz (d : Byte) : (pushBlock d s).ksz = s.ksz := rfl
@[simp] theorem pushBlock_keyReady (d : Byte) : (pushBlock d s).keyReady = s.keyReady := rfl
@[simp] theorem pushBlock_outValid (d : Byte) : (pushBlock d s).outValid = s.outValid := rfl
@[simp] theorem pushBlock_errcode (d : Byte) : (pushBlock d s).errcode = s.errcode := rfl
@[simp] theorem pushBlock_errinfo (d : Byte) : (pushBlock d s).errinfo = s.errinfo := rfl
@[simp] theorem pushBlock_kbuf (d : Byte) : (pushBlock d s).kbuf = s.kbuf := rfl
@[simp] theorem pushBlock_kcnt (d : Byte) : (pushBlock d s).kcnt = s.kcnt := rfl
@[simp] theorem pushBlock_dbuf (d : Byte) : (pushBlock d s).dbuf = if s.dcnt.toNat < 16 then s.dbuf.setIfInBounds s.dcnt.toNat d else s.dbuf := rfl
@[simp] theorem pushBlock_dcnt (d : Byte) : (pushBlock d s).dcnt = if s.dcnt.toNat < 31 then s.dcnt + 1 else s.dcnt := rfl
@[simp] theorem pushBlock_W (d : Byte) : (pushBlock d s).W = s.W := rfl
@[simp] theorem pushBlock_S (d : Byte) : (pushBlock d s).S = s.S := rfl
@[simp] theorem pushBlock_out (d : Byte) : (pushBlock d s).out = s.out := rfl
@[simp] theorem pushBlock_rdata (d : Byte) : (pushBlock d s).rdata = s.rdata := rfl
@[simp] theorem pushBlock_reads (d : Byte) : (pushBlock d s).reads = s.reads := rfl
@[simp] theorem pushBlock_sched (d : Byte) : (pushBlock d s).sched = s.sched := rfl

@[simp] theorem respond_phase (d : Byte) : (respond d s).phase = s.phase := rfl
@[simp] theorem respond_upc (d : Byte) : (respond d s).upc = s.upc := rfl
@[simp] theorem respond_ki (d : Byte) : (respond d s).ki = s.ki := rfl
@[simp] theorem respond_ksz (d : Byte) : (respond d s).ksz = s.ksz := rfl
@[simp] theorem respond_keyReady (d : Byte) : (respond d s).keyReady = s.keyReady := rfl
@[simp] theorem respond_outValid (d : Byte) : (respond d s).outValid = s.outValid := rfl
@[simp] theorem respond_errcode (d : Byte) : (respond d s).errcode = s.errcode := rfl
@[simp] theorem respond_errinfo (d : Byte) : (respond d s).errinfo = s.errinfo := rfl
@[simp] theorem respond_kbuf (d : Byte) : (respond d s).kbuf = s.kbuf := rfl
@[simp] theorem respond_kcnt (d : Byte) : (respond d s).kcnt = s.kcnt := rfl
@[simp] theorem respond_dbuf (d : Byte) : (respond d s).dbuf = s.dbuf := rfl
@[simp] theorem respond_dcnt (d : Byte) : (respond d s).dcnt = s.dcnt := rfl
@[simp] theorem respond_W (d : Byte) : (respond d s).W = s.W := rfl
@[simp] theorem respond_S (d : Byte) : (respond d s).S = s.S := rfl
@[simp] theorem respond_out (d : Byte) : (respond d s).out = s.out := rfl
@[simp] theorem respond_rdata (d : Byte) : (respond d s).rdata = some d := rfl
@[simp] theorem respond_reads (d : Byte) : (respond d s).reads = s.reads ++ [d] := rfl
@[simp] theorem respond_sched (d : Byte) : (respond d s).sched = s.sched := rfl

@[simp] theorem startExpansion_phase (c : BitVec 2) (nk : Nat) : (startExpansion c nk s).phase = .keyexp := rfl
@[simp] theorem startExpansion_upc (c : BitVec 2) (nk : Nat) : (startExpansion c nk s).upc = s.upc := rfl
@[simp] theorem startExpansion_ki (c : BitVec 2) (nk : Nat) : (startExpansion c nk s).ki = BitVec.ofNat 6 nk := rfl
@[simp] theorem startExpansion_ksz (c : BitVec 2) (nk : Nat) : (startExpansion c nk s).ksz = c := rfl
@[simp] theorem startExpansion_keyReady (c : BitVec 2) (nk : Nat) : (startExpansion c nk s).keyReady = s.keyReady := rfl
@[simp] theorem startExpansion_outValid (c : BitVec 2) (nk : Nat) : (startExpansion c nk s).outValid = s.outValid := rfl
@[simp] theorem startExpansion_errcode (c : BitVec 2) (nk : Nat) : (startExpansion c nk s).errcode = s.errcode := rfl
@[simp] theorem startExpansion_errinfo (c : BitVec 2) (nk : Nat) : (startExpansion c nk s).errinfo = s.errinfo := rfl
@[simp] theorem startExpansion_kbuf (c : BitVec 2) (nk : Nat) : (startExpansion c nk s).kbuf = s.kbuf := rfl
@[simp] theorem startExpansion_kcnt (c : BitVec 2) (nk : Nat) : (startExpansion c nk s).kcnt = s.kcnt := rfl
@[simp] theorem startExpansion_dbuf (c : BitVec 2) (nk : Nat) : (startExpansion c nk s).dbuf = s.dbuf := rfl
@[simp] theorem startExpansion_dcnt (c : BitVec 2) (nk : Nat) : (startExpansion c nk s).dcnt = s.dcnt := rfl
@[simp] theorem startExpansion_W (c : BitVec 2) (nk : Nat) : (startExpansion c nk s).W = loadKeyWords nk s.kbuf s.W := rfl
@[simp] theorem startExpansion_S (c : BitVec 2) (nk : Nat) : (startExpansion c nk s).S = s.S := rfl
@[simp] theorem startExpansion_out (c : BitVec 2) (nk : Nat) : (startExpansion c nk s).out = s.out := rfl
@[simp] theorem startExpansion_rdata (c : BitVec 2) (nk : Nat) : (startExpansion c nk s).rdata = s.rdata := rfl
@[simp] theorem startExpansion_reads (c : BitVec 2) (nk : Nat) : (startExpansion c nk s).reads = s.reads := rfl
@[simp] theorem startExpansion_sched (c : BitVec 2) (nk : Nat) : (startExpansion c nk s).sched = s.sched := rfl

@[simp] theorem startCipher_phase (ph : Phase) : (startCipher ph s).phase = ph := rfl
@[simp] theorem startCipher_upc (ph : Phase) : (startCipher ph s).upc = 0 := rfl
@[simp] theorem startCipher_ki (ph : Phase) : (startCipher ph s).ki = s.ki := rfl
@[simp] theorem startCipher_ksz (ph : Phase) : (startCipher ph s).ksz = s.ksz := rfl
@[simp] theorem startCipher_keyReady (ph : Phase) : (startCipher ph s).keyReady = s.keyReady := rfl
@[simp] theorem startCipher_outValid (ph : Phase) : (startCipher ph s).outValid = s.outValid := rfl
@[simp] theorem startCipher_errcode (ph : Phase) : (startCipher ph s).errcode = s.errcode := rfl
@[simp] theorem startCipher_errinfo (ph : Phase) : (startCipher ph s).errinfo = s.errinfo := rfl
@[simp] theorem startCipher_kbuf (ph : Phase) : (startCipher ph s).kbuf = s.kbuf := rfl
@[simp] theorem startCipher_kcnt (ph : Phase) : (startCipher ph s).kcnt = s.kcnt := rfl
@[simp] theorem startCipher_dbuf (ph : Phase) : (startCipher ph s).dbuf = s.dbuf := rfl
@[simp] theorem startCipher_dcnt (ph : Phase) : (startCipher ph s).dcnt = s.dcnt := rfl
@[simp] theorem startCipher_W (ph : Phase) : (startCipher ph s).W = s.W := rfl
@[simp] theorem startCipher_S (ph : Phase) : (startCipher ph s).S = loadMat s.dbuf := rfl
@[simp] theorem startCipher_out (ph : Phase) : (startCipher ph s).out = s.out := rfl
@[simp] theorem startCipher_rdata (ph : Phase) : (startCipher ph s).rdata = s.rdata := rfl
@[simp] theorem startCipher_reads (ph : Phase) : (startCipher ph s).reads = s.reads := rfl
@[simp] theorem startCipher_sched (ph : Phase) : (startCipher ph s).sched = s.sched := rfl

@[simp] theorem storeScheduleWord_phase (v : Word) : (storeScheduleWord v s).phase = s.phase := rfl
@[simp] theorem storeScheduleWord_upc (v : Word) : (storeScheduleWord v s).upc = s.upc := rfl
@[simp] theorem storeScheduleWord_ki (v : Word) : (storeScheduleWord v s).ki = s.ki + 1 := rfl
@[simp] theorem storeScheduleWord_ksz (v : Word) : (storeScheduleWord v s).ksz = s.ksz := rfl
@[simp] theorem storeScheduleWord_keyReady (v : Word) : (storeScheduleWord v s).keyReady = s.keyReady := rfl
@[simp] theorem storeScheduleWord_outValid (v : Word) : (storeScheduleWord v s).outValid = s.outValid := rfl
@[simp] theorem storeScheduleWord_errcode (v : Word) : (storeScheduleWord v s).errcode = s.errcode := rfl
@[simp] theorem storeScheduleWord_errinfo (v : Word) : (storeScheduleWord v s).errinfo = s.errinfo := rfl
@[simp] theorem storeScheduleWord_kbuf (v : Word) : (storeScheduleWord v s).kbuf = s.kbuf := rfl
@[simp] theorem storeScheduleWord_kcnt (v : Word) : (storeScheduleWord v s).kcnt = s.kcnt := rfl
@[simp] theorem storeScheduleWord_dbuf (v : Word) : (storeScheduleWord v s).dbuf = s.dbuf := rfl
@[simp] theorem storeScheduleWord_dcnt (v : Word) : (storeScheduleWord v s).dcnt = s.dcnt := rfl
@[simp] theorem storeScheduleWord_W (v : Word) : (storeScheduleWord v s).W = setWordAt s.W s.ki.toNat v := rfl
@[simp] theorem storeScheduleWord_S (v : Word) : (storeScheduleWord v s).S = s.S := rfl
@[simp] theorem storeScheduleWord_out (v : Word) : (storeScheduleWord v s).out = s.out := rfl
@[simp] theorem storeScheduleWord_rdata (v : Word) : (storeScheduleWord v s).rdata = s.rdata := rfl
@[simp] theorem storeScheduleWord_reads (v : Word) : (storeScheduleWord v s).reads = s.reads := rfl
@[simp] theorem storeScheduleWord_sched (v : Word) : (storeScheduleWord v s).sched = s.sched := rfl

@[simp] theorem completeExpansion_phase : (completeExpansion s).phase = .idle := rfl
@[simp] theorem completeExpansion_upc : (completeExpansion s).upc = s.upc := rfl
@[simp] theorem completeExpansion_ki : (completeExpansion s).ki = s.ki := rfl
@[simp] theorem completeExpansion_ksz : (completeExpansion s).ksz = s.ksz := rfl
@[simp] theorem completeExpansion_keyReady : (completeExpansion s).keyReady = true := rfl
@[simp] theorem completeExpansion_outValid : (completeExpansion s).outValid = s.outValid := rfl
@[simp] theorem completeExpansion_errcode : (completeExpansion s).errcode = s.errcode := rfl
@[simp] theorem completeExpansion_errinfo : (completeExpansion s).errinfo = s.errinfo := rfl
@[simp] theorem completeExpansion_kbuf : (completeExpansion s).kbuf = s.kbuf := rfl
@[simp] theorem completeExpansion_kcnt : (completeExpansion s).kcnt = s.kcnt := rfl
@[simp] theorem completeExpansion_dbuf : (completeExpansion s).dbuf = s.dbuf := rfl
@[simp] theorem completeExpansion_dcnt : (completeExpansion s).dcnt = s.dcnt := rfl
@[simp] theorem completeExpansion_W : (completeExpansion s).W = s.W := rfl
@[simp] theorem completeExpansion_S : (completeExpansion s).S = s.S := rfl
@[simp] theorem completeExpansion_out : (completeExpansion s).out = s.out := rfl
@[simp] theorem completeExpansion_rdata : (completeExpansion s).rdata = s.rdata := rfl
@[simp] theorem completeExpansion_reads : (completeExpansion s).reads = s.reads := rfl
@[simp] theorem completeExpansion_sched : (completeExpansion s).sched = s.sched := rfl

@[simp] theorem advance_phase (m : Mat) : (advance m s).phase = s.phase := rfl
@[simp] theorem advance_upc (m : Mat) : (advance m s).upc = s.upc + 1 := rfl
@[simp] theorem advance_ki (m : Mat) : (advance m s).ki = s.ki := rfl
@[simp] theorem advance_ksz (m : Mat) : (advance m s).ksz = s.ksz := rfl
@[simp] theorem advance_keyReady (m : Mat) : (advance m s).keyReady = s.keyReady := rfl
@[simp] theorem advance_outValid (m : Mat) : (advance m s).outValid = s.outValid := rfl
@[simp] theorem advance_errcode (m : Mat) : (advance m s).errcode = s.errcode := rfl
@[simp] theorem advance_errinfo (m : Mat) : (advance m s).errinfo = s.errinfo := rfl
@[simp] theorem advance_kbuf (m : Mat) : (advance m s).kbuf = s.kbuf := rfl
@[simp] theorem advance_kcnt (m : Mat) : (advance m s).kcnt = s.kcnt := rfl
@[simp] theorem advance_dbuf (m : Mat) : (advance m s).dbuf = s.dbuf := rfl
@[simp] theorem advance_dcnt (m : Mat) : (advance m s).dcnt = s.dcnt := rfl
@[simp] theorem advance_W (m : Mat) : (advance m s).W = s.W := rfl
@[simp] theorem advance_S (m : Mat) : (advance m s).S = m := rfl
@[simp] theorem advance_out (m : Mat) : (advance m s).out = s.out := rfl
@[simp] theorem advance_rdata (m : Mat) : (advance m s).rdata = s.rdata := rfl
@[simp] theorem advance_reads (m : Mat) : (advance m s).reads = s.reads := rfl
@[simp] theorem advance_sched (m : Mat) : (advance m s).sched = s.sched := rfl

@[simp] theorem completeCipher_phase (m : Mat) : (completeCipher m s).phase = .idle := rfl
@[simp] theorem completeCipher_upc (m : Mat) : (completeCipher m s).upc = s.upc + 1 := rfl
@[simp] theorem completeCipher_ki (m : Mat) : (completeCipher m s).ki = s.ki := rfl
@[simp] theorem completeCipher_ksz (m : Mat) : (completeCipher m s).ksz = s.ksz := rfl
@[simp] theorem completeCipher_keyReady (m : Mat) : (completeCipher m s).keyReady = s.keyReady := rfl
@[simp] theorem completeCipher_outValid (m : Mat) : (completeCipher m s).outValid = true := rfl
@[simp] theorem completeCipher_errcode (m : Mat) : (completeCipher m s).errcode = s.errcode := rfl
@[simp] theorem completeCipher_errinfo (m : Mat) : (completeCipher m s).errinfo = s.errinfo := rfl
@[simp] theorem completeCipher_kbuf (m : Mat) : (completeCipher m s).kbuf = s.kbuf := rfl
@[simp] theorem completeCipher_kcnt (m : Mat) : (completeCipher m s).kcnt = s.kcnt := rfl
@[simp] theorem completeCipher_dbuf (m : Mat) : (completeCipher m s).dbuf = s.dbuf := rfl
@[simp] theorem completeCipher_dcnt (m : Mat) : (completeCipher m s).dcnt = s.dcnt := rfl
@[simp] theorem completeCipher_W (m : Mat) : (completeCipher m s).W = s.W := rfl
@[simp] theorem completeCipher_S (m : Mat) : (completeCipher m s).S = Mat.zero := rfl
@[simp] theorem completeCipher_out (m : Mat) : (completeCipher m s).out = storeMat m := rfl
@[simp] theorem completeCipher_rdata (m : Mat) : (completeCipher m s).rdata = s.rdata := rfl
@[simp] theorem completeCipher_reads (m : Mat) : (completeCipher m s).reads = s.reads := rfl
@[simp] theorem completeCipher_sched (m : Mat) : (completeCipher m s).sched = s.sched := rfl

@[simp] theorem resetStep_phase : (resetStep s).phase = State.reset.phase := rfl
@[simp] theorem resetStep_upc : (resetStep s).upc = State.reset.upc := rfl
@[simp] theorem resetStep_ki : (resetStep s).ki = State.reset.ki := rfl
@[simp] theorem resetStep_ksz : (resetStep s).ksz = State.reset.ksz := rfl
@[simp] theorem resetStep_keyReady : (resetStep s).keyReady = State.reset.keyReady := rfl
@[simp] theorem resetStep_outValid : (resetStep s).outValid = State.reset.outValid := rfl
@[simp] theorem resetStep_errcode : (resetStep s).errcode = State.reset.errcode := rfl
@[simp] theorem resetStep_errinfo : (resetStep s).errinfo = State.reset.errinfo := rfl
@[simp] theorem resetStep_kbuf : (resetStep s).kbuf = State.reset.kbuf := rfl
@[simp] theorem resetStep_kcnt : (resetStep s).kcnt = State.reset.kcnt := rfl
@[simp] theorem resetStep_dbuf : (resetStep s).dbuf = State.reset.dbuf := rfl
@[simp] theorem resetStep_dcnt : (resetStep s).dcnt = State.reset.dcnt := rfl
@[simp] theorem resetStep_W : (resetStep s).W = State.reset.W := rfl
@[simp] theorem resetStep_S : (resetStep s).S = State.reset.S := rfl
@[simp] theorem resetStep_out : (resetStep s).out = State.reset.out := rfl
@[simp] theorem resetStep_rdata : (resetStep s).rdata = s.rdata := rfl
@[simp] theorem resetStep_reads : (resetStep s).reads = s.reads := rfl
@[simp] theorem resetStep_sched : (resetStep s).sched = s.sched := rfl

@[simp] theorem latchPort_phase (p : Pins) : (latchPort p s).phase = s.phase := rfl
@[simp] theorem latchPort_upc (p : Pins) : (latchPort p s).upc = s.upc := rfl
@[simp] theorem latchPort_ki (p : Pins) : (latchPort p s).ki = s.ki := rfl
@[simp] theorem latchPort_ksz (p : Pins) : (latchPort p s).ksz = s.ksz := rfl
@[simp] theorem latchPort_keyReady (p : Pins) : (latchPort p s).keyReady = s.keyReady := rfl
@[simp] theorem latchPort_outValid (p : Pins) : (latchPort p s).outValid = s.outValid := rfl
@[simp] theorem latchPort_errcode (p : Pins) : (latchPort p s).errcode = s.errcode := rfl
@[simp] theorem latchPort_errinfo (p : Pins) : (latchPort p s).errinfo = s.errinfo := rfl
@[simp] theorem latchPort_kbuf (p : Pins) : (latchPort p s).kbuf = s.kbuf := rfl
@[simp] theorem latchPort_kcnt (p : Pins) : (latchPort p s).kcnt = s.kcnt := rfl
@[simp] theorem latchPort_dbuf (p : Pins) : (latchPort p s).dbuf = s.dbuf := rfl
@[simp] theorem latchPort_dcnt (p : Pins) : (latchPort p s).dcnt = s.dcnt := rfl
@[simp] theorem latchPort_W (p : Pins) : (latchPort p s).W = s.W := rfl
@[simp] theorem latchPort_S (p : Pins) : (latchPort p s).S = s.S := rfl
@[simp] theorem latchPort_out (p : Pins) : (latchPort p s).out = s.out := rfl
@[simp] theorem latchPort_rdata (p : Pins) : (latchPort p s).rdata = if p.rdEn then some 0x00 else none := rfl
@[simp] theorem latchPort_reads (p : Pins) : (latchPort p s).reads = s.reads := rfl
@[simp] theorem latchPort_sched (p : Pins) : (latchPort p s).sched = s.sched := rfl

end Sys2Proof.Machine
end

