-- ==== Sys2Proof/Laws/Ops.lean ====
section
/-! SUPPORT. One lemma for each shared operation and for the step, saying everything it can do; proofs cite these
instead of unfolding the operation. -/

namespace Sys2Proof.Machine

theorem busy_eq_false {s : State} : busy s = false ↔ s.phase = .idle := by simp [busy]

theorem busy_eq_true {s : State} : busy s = true ↔ s.phase ≠ .idle := by simp [busy]

/-- R104: everything a KEYEXP can do. -/
theorem commandKeyexp_cases (c : BitVec 2) (s : State) :
    (s.phase ≠ .idle ∧ commandKeyexp c s = report .busy 0x00 s) ∨
    (s.phase = .idle ∧ KeySize.ofCode c = none ∧ commandKeyexp c s = report .badKeysize 0x00 (consumeKey s)) ∨
    (∃ ks, s.phase = .idle ∧ KeySize.ofCode c = some ks ∧ s.kcnt.toNat ≠ 4 * ks.nk ∧
      commandKeyexp c s = report .keyLen (kcntByte s) (consumeKey s)) ∨
    (∃ ks, s.phase = .idle ∧ KeySize.ofCode c = some ks ∧ s.kcnt.toNat = 4 * ks.nk ∧
      commandKeyexp c s = report .ok 0x00 (consumeKey (startExpansion c ks.nk s))) := by
  by_cases hb : s.phase = .idle
  · have hb' := busy_eq_false.mpr hb
    cases hk : KeySize.ofCode c with
    | none => simp [commandKeyexp, hb', hb, hk]
    | some ks => by_cases hn : s.kcnt.toNat = 4 * ks.nk <;> simp [commandKeyexp, hb', hb, hk, hn]
  · simp [commandKeyexp, busy_eq_true.mpr hb, hb]

/-- R105, R106: everything an ENCRYPT or DECRYPT can do. -/
theorem commandCipher_cases (ph : Phase) (s : State) :
    (s.phase ≠ .idle ∧ commandCipher ph s = report .busy 0x00 s) ∨
    (s.phase = .idle ∧ s.keyReady = false ∧ commandCipher ph s = report .noKey 0x00 (consumeBlock s)) ∨
    (s.phase = .idle ∧ s.keyReady = true ∧ s.dcnt.toNat ≠ 16 ∧
      commandCipher ph s = report .blockLen (dcntByte s) (consumeBlock s)) ∨
    (s.phase = .idle ∧ s.keyReady = true ∧ s.dcnt.toNat = 16 ∧
      commandCipher ph s = report .ok 0x00 (consumeBlock (startCipher ph s))) := by
  by_cases hb : s.phase = .idle
  · have hb' := busy_eq_false.mpr hb
    cases hk : s.keyReady <;> by_cases hn : s.dcnt.toNat = 16 <;> simp [commandCipher, hb', hb, hk, hn]
  · simp [commandCipher, busy_eq_true.mpr hb, hb]

/-- R107: everything an illegal command byte can do. -/
theorem commandIllegal_cases (s : State) :
    (s.phase ≠ .idle ∧ commandIllegal s = report .busy 0x00 s) ∨
    (s.phase = .idle ∧ commandIllegal s = report .illegalCmd 0x00 s) := by
  by_cases hb : s.phase = .idle
  · simp [commandIllegal, busy_eq_false.mpr hb, hb]
  · simp [commandIllegal, busy_eq_true.mpr hb, hb]

/-- R108: the counter after a key push. -/
theorem pushKey_kcnt_toNat (d : Byte) (s : State) : (pushKey d s).kcnt.toNat = min (s.kcnt.toNat + 1) 63 := by
  have := s.kcnt.isLt
  rw [pushKey_kcnt]
  split
  · rw [toNat_add_one_of_lt (by assumption)]; omega
  · omega

/-- R108: the key buffer after a push; a byte past its end is not stored. -/
theorem byteAt_pushKey (d : Byte) (s : State) (i : Nat) :
    byteAt (pushKey d s).kbuf i = if i = s.kcnt.toNat ∧ i < 32 then d else byteAt s.kbuf i := by
  by_cases h : s.kcnt.toNat < 32
  · rw [pushKey_kbuf, if_pos h, byteAt_setIfInBounds _ _ _ _ h]
    by_cases hi : i = s.kcnt.toNat
    · rw [if_pos hi, if_pos ⟨hi, by omega⟩]
    · rw [if_neg hi, if_neg (by tauto)]
  · rw [pushKey_kbuf, if_neg h, if_neg (by omega)]

/-- R109: the counter after a block push. -/
theorem pushBlock_dcnt_toNat (d : Byte) (s : State) : (pushBlock d s).dcnt.toNat = min (s.dcnt.toNat + 1) 31 := by
  have := s.dcnt.isLt
  rw [pushBlock_dcnt]
  split
  · rw [BitVec.toNat_add]; simp; omega
  · omega

/-- R109: the block buffer after a push; a byte past its end is not stored. -/
theorem byteAt_pushBlock (d : Byte) (s : State) (i : Nat) :
    byteAt (pushBlock d s).dbuf i = if i = s.dcnt.toNat ∧ i < 16 then d else byteAt s.dbuf i := by
  by_cases h : s.dcnt.toNat < 16
  · rw [pushBlock_dbuf, if_pos h, byteAt_setIfInBounds _ _ _ _ h]
    by_cases hi : i = s.dcnt.toNat
    · rw [if_pos hi, if_pos ⟨hi, by omega⟩]
    · rw [if_neg hi, if_neg (by tauto)]
  · rw [pushBlock_dbuf, if_neg h, if_neg (by omega)]

/-- R96, R97: what an engine step of ENC or DEC that answers a next state has done. -/
theorem engineStep_next {m : Mat} {s t : State} (h : engineStep m s = .next t) :
    ∃ ks, KeySize.ofCode s.ksz = some ks ∧
      ((s.upc.toNat + 1 = ks.programLen ∧ t = completeCipher m s) ∨
        (s.upc.toNat + 1 ≠ ks.programLen ∧ t = advance m s)) := by
  unfold engineStep at h
  split at h
  · cases h
  · rename_i ks hk
    refine ⟨ks, hk, ?_⟩
    by_cases hl : s.upc.toNat + 1 = ks.programLen
    · exact .inl ⟨hl, by simpa [hl] using h.symm⟩
    · exact .inr ⟨hl, by simpa [hl] using h.symm⟩

/-- R83, R84: what a KXW that answers a next state has done. -/
theorem execKxw_next {s t : State} (h : execKxw s = .next t) :
    ∃ ks, KeySize.ofCode s.ksz = some ks ∧ ks.nk ≤ s.ki.toNat ∧ s.ki.toNat < ks.scheduleLen ∧
      ((s.ki.toNat + 1 = ks.scheduleLen ∧ t = completeExpansion (storeScheduleWord (kxwWord ks s) s)) ∨
        (s.ki.toNat + 1 ≠ ks.scheduleLen ∧ t = storeScheduleWord (kxwWord ks s) s)) := by
  unfold execKxw at h
  split at h
  · cases h
  · rename_i ks hk
    split at h
    · rename_i hr
      refine ⟨ks, hk, hr.1, hr.2, ?_⟩
      by_cases hl : s.ki.toNat + 1 = ks.scheduleLen
      · exact .inl ⟨hl, by simpa [hl] using h.symm⟩
      · exact .inr ⟨hl, by simpa [hl] using h.symm⟩
    · cases h

/-- A round micro-operation is one engine step with its own effect on S (R96). -/
theorem exec_roundOp {i : Instr} (h : isRoundOp i = true) (s : State) :
    exec i s = engineStep (applyMicroOp s.W s.S i) s := by
  cases i <;> first | rfl | cases h

/-- A decoded transaction is a command, a push, a read or an ignored access. -/
theorem exec_decodeBus_next (w : BitVec 14) (s : State) : ∃ t, exec (decodeBus w) s = .next t := by
  unfold decodeBus decodeWrite decodeRead decodeCmd
  split_ifs <;> exact ⟨_, rfl⟩

/-- Every word of a micro-program is a round micro-operation (R94, R95). -/
theorem decodeUop_of_mem_uprog {ks : KeySize} {u : Byte} (h : u ∈ uprogEnc ks.nr ∨ u ∈ uprogDec ks.nr) :
    ∃ i, decodeUop u = .ok i ∧ isRoundOp i = true := by
  have key : ∀ v ∈ uprogEnc ks.nr ++ uprogDec ks.nr,
      (match decodeUop v with | .ok i => isRoundOp i | .error _ => false) = true := by
    cases ks <;> decide
  have := key u (List.mem_append.mpr h)
  split at this
  · exact ⟨_, by assumption, this⟩
  · cases this

/-- What an engine turn that answers a next state has done (R83, R96, R142). -/
theorem engineTurn_next {s t : State} (h : engineTurn s = .next t) :
    (s.phase = .idle ∧ t = s) ∨ (s.phase = .keyexp ∧ execKxw s = .next t) ∨
    (∃ i, (s.phase = .enc ∨ s.phase = .dec) ∧ isRoundOp i = true ∧
      engineStep (applyMicroOp s.W s.S i) s = .next t) := by
  unfold engineTurn at h
  cases hp : s.phase with
  | idle => left; simpa [fetchMicroOp, hp, eq_comm] using h
  | keyexp => right; left; exact ⟨rfl, by simpa [fetchMicroOp, hp, decodeUop, uopKind, exec] using h⟩
  | enc =>
    right; right
    simp only [fetchMicroOp, hp] at h
    cases hk : KeySize.ofCode s.ksz with
    | none => simp [hk] at h
    | some ks =>
      cases hu : (uprogEnc ks.nr)[s.upc.toNat]? with
      | none => simp [hk, hu] at h
      | some u =>
        obtain ⟨i, hi, hr⟩ := decodeUop_of_mem_uprog (ks := ks) (u := u) (.inl (List.mem_of_getElem? hu))
        simp only [hk, hu, hi] at h
        exact ⟨i, .inl rfl, hr, by rw [← exec_roundOp hr]; exact h⟩
  | dec =>
    right; right
    simp only [fetchMicroOp, hp] at h
    cases hk : KeySize.ofCode s.ksz with
    | none => simp [hk] at h
    | some ks =>
      cases hu : (uprogDec ks.nr)[s.upc.toNat]? with
      | none => simp [hk, hu] at h
      | some u =>
        obtain ⟨i, hi, hr⟩ := decodeUop_of_mem_uprog (ks := ks) (u := u) (.inr (List.mem_of_getElem? hu))
        simp only [hk, hu, hi] at h
        exact ⟨i, .inr rfl, hr, by rw [← exec_roundOp hr]; exact h⟩

/-- What a clock edge that answers a next state has done (R102, R143). -/
theorem edgeTurn_next {p : Pins} {s t : State} (h : edgeTurn p s = .next t) :
    (p.rst = true ∧ t = resetStep (latchPort p s)) ∨
    (p.rst = false ∧ p.transaction = none ∧ t = latchPort p s) ∨
    (∃ w, p.rst = false ∧ p.transaction = some w ∧ exec (decodeBus w) (latchPort p s) = .next t) := by
  unfold edgeTurn at h
  cases hr : p.rst with
  | true => left; simpa [hr, eq_comm] using h
  | false =>
    right
    cases ht : p.transaction with
    | none => left; simpa [hr, ht, eq_comm] using h
    | some w => right; exact ⟨w, rfl, rfl, by simpa [hr, ht] using h⟩

/-- What a step that answers a next state has done: the first turn of the schedule, the engine's when it is empty. -/
theorem step_next {s t : State} (h : step s = .next t) :
    (s.sched = [] ∧ engineTurn s = .next t) ∨
    (∃ rest, s.sched = .engine :: rest ∧ engineTurn { s with sched := rest } = .next t) ∨
    (∃ p rest, s.sched = .edge p :: rest ∧ edgeTurn p { s with sched := rest } = .next t) := by
  unfold step nextTurn at h
  split at h
  · exact .inl ⟨by assumption, h⟩
  · rename_i t' rest hs
    cases t' with
    | engine => exact .inr (.inl ⟨rest, hs, h⟩)
    | edge p => exact .inr (.inr ⟨p, rest, hs, h⟩)

end Sys2Proof.Machine
end

