-- ==== Sys2Proof/Laws/Execution.lean ====
section
/-! SUPPORT. Turns against the schedule: a turn neither reads nor writes the schedule, so a finite execution is the run
of `step` whose schedule lists its turns; and the turns of an idle engine. -/

namespace Sys2Proof.Machine

/-- Replacing the schedule in an outcome. -/
def withSched (ts : List Turn) : Host.Outcome State Fault Refusal → Host.Outcome State Fault Refusal
  | .next s => .next { s with sched := ts }
  | .fault f => .fault f
  | .refused r => .refused r

theorem engineStep_withSched (m : Mat) (s : State) (ts : List Turn) :
    engineStep m { s with sched := ts } = withSched ts (engineStep m s) := by
  unfold engineStep
  cases KeySize.ofCode s.ksz with
  | none => rfl
  | some ks => by_cases h : s.upc.toNat + 1 = ks.programLen <;> simp [h, withSched, advance, completeCipher]

theorem execKxw_withSched (s : State) (ts : List Turn) :
    execKxw { s with sched := ts } = withSched ts (execKxw s) := by
  unfold execKxw
  cases KeySize.ofCode s.ksz with
  | none => rfl
  | some ks =>
    by_cases hr : ks.nk ≤ s.ki.toNat ∧ s.ki.toNat < ks.scheduleLen
    · by_cases hl : s.ki.toNat + 1 = ks.scheduleLen <;>
        simp [hr, hl, withSched, completeExpansion, storeScheduleWord, kxwWord]
    · simp [hr, withSched]

theorem commandKeyexp_withSched (c : BitVec 2) (s : State) (ts : List Turn) :
    commandKeyexp c { s with sched := ts } = { commandKeyexp c s with sched := ts } := by
  rcases commandKeyexp_cases c s with ⟨hp, e⟩ | ⟨hp, hk, e⟩ | ⟨ks, hp, hk, hn, e⟩ | ⟨ks, hp, hk, hn, e⟩ <;>
    rcases commandKeyexp_cases c { s with sched := ts } with
      ⟨hp', e'⟩ | ⟨hp', hk', e'⟩ | ⟨ks', hp', hk', hn', e'⟩ | ⟨ks', hp', hk', hn', e'⟩ <;>
    first
      | exact absurd hp hp'
      | exact absurd hp' hp
      | (rw [e, e']; rfl)
      | (rw [hk] at hk'; cases hk' <;> first | exact absurd hn' hn | exact absurd hn hn' | (rw [e, e']; rfl))

theorem commandCipher_withSched (ph : Phase) (s : State) (ts : List Turn) :
    commandCipher ph { s with sched := ts } = { commandCipher ph s with sched := ts } := by
  rcases commandCipher_cases ph s with ⟨hp, e⟩ | ⟨hp, hk, e⟩ | ⟨hp, hk, hn, e⟩ | ⟨hp, hk, hn, e⟩ <;>
    rcases commandCipher_cases ph { s with sched := ts } with
      ⟨hp', e'⟩ | ⟨hp', hk', e'⟩ | ⟨hp', hk', hn', e'⟩ | ⟨hp', hk', hn', e'⟩ <;>
    first
      | exact absurd hp hp'
      | exact absurd hp' hp
      | exact absurd hn' hn
      | exact absurd hn hn'
      | (rw [e, e']; rfl)
      | (rw [hk] at hk'; cases hk')

theorem commandIllegal_withSched (s : State) (ts : List Turn) :
    commandIllegal { s with sched := ts } = { commandIllegal s with sched := ts } := by
  rcases commandIllegal_cases s with ⟨hp, e⟩ | ⟨hp, e⟩ <;>
    rcases commandIllegal_cases { s with sched := ts } with ⟨hp', e'⟩ | ⟨hp', e'⟩ <;>
    first
      | exact absurd hp hp'
      | exact absurd hp' hp
      | (rw [e, e']; rfl)

/-- No meaning reads or writes the schedule. -/
theorem exec_withSched (i : Instr) (s : State) (ts : List Turn) :
    exec i { s with sched := ts } = withSched ts (exec i s) := by
  cases i with
  | keyexp c => exact congrArg _ (commandKeyexp_withSched c s ts)
  | encrypt => exact congrArg _ (commandCipher_withSched .enc s ts)
  | decrypt => exact congrArg _ (commandCipher_withSched .dec s ts)
  | cmdIllegal d => exact congrArg _ (commandIllegal_withSched s ts)
  | accessIgnored w a d => cases w <;> rfl
  | kxw => exact execKxw_withSched s ts
  | ark rnd => exact engineStep_withSched _ s ts
  | sb => exact engineStep_withSched _ s ts
  | isb => exact engineStep_withSched _ s ts
  | sr => exact engineStep_withSched _ s ts
  | isr => exact engineStep_withSched _ s ts
  | mc => exact engineStep_withSched _ s ts
  | imc => exact engineStep_withSched _ s ts
  | wrKeyin d => rfl
  | wrDin d => rfl
  | rdStatus => rfl
  | rdErrcode => rfl
  | rdErrinfo => rfl
  | rdKcnt => rfl
  | rdDcnt => rfl
  | rdDout j => rfl

/-- R53: no turn reads or writes the schedule: who moves next is not the machine's to see. -/
theorem takeTurn_withSched (t : Turn) (s : State) (ts : List Turn) :
    takeTurn t { s with sched := ts } = withSched ts (takeTurn t s) := by
  cases t with
  | engine =>
    have hf : fetchMicroOp { s with sched := ts } = fetchMicroOp s := rfl
    unfold takeTurn engineTurn
    rw [hf]
    cases fetchMicroOp s with
    | none => rfl
    | some r =>
      cases r with
      | error f => rfl
      | ok u =>
        cases hd : decodeUop u with
        | error e => simp [hd, withSched]
        | ok i => simpa [hd] using exec_withSched i s ts
  | edge p =>
    cases hr : p.rst with
    | true => simp only [takeTurn, edgeTurn, hr]; rfl
    | false =>
      cases hw : p.transaction with
      | none => simp only [takeTurn, edgeTurn, hr, hw]; rfl
      | some w =>
        simp only [takeTurn, edgeTurn, hr, hw, Bool.false_eq_true, if_false]
        exact exec_withSched (decodeBus w) (latchPort p s) ts

/-- A step with a turn scheduled is that turn. -/
theorem step_cons {s : State} {t : Turn} {rest : List Turn} (h : s.sched = t :: rest) :
    step s = takeTurn t { s with sched := rest } := by
  simp [step, nextTurn, h]

/-- A step with nothing scheduled is the engine's turn (assumption 1). -/
theorem step_nil {s : State} (h : s.sched = []) : step s = takeTurn .engine s := by
  simp [step, nextTurn, h]

theorem runsTo_succ {n : Nat} {s u t : State} (h : step s = .next u) (h' : RunsTo n u t) : RunsTo (n + 1) s t := by
  have hs : Sys2Proof.core.step s = .next u := h
  show Host.Core.run Sys2Proof.core (n + 1) s = .next t
  simp only [Host.Core.run]
  rw [hs]
  exact h'

/-- R53: every finite execution, whatever its interleaving, is the run whose schedule lists its turns. -/
theorem runsTo_schedule (ts : List Turn) :
    ∀ {s t : State}, takeTurns ts s = .next t → RunsTo ts.length { s with sched := ts } { t with sched := [] } := by
  induction ts with
  | nil => intro s t h; cases h; rfl
  | cons turn ts ih =>
    intro s t h
    simp only [takeTurns] at h
    cases hu : takeTurn turn s with
    | next u =>
      rw [hu] at h
      have hs : step { s with sched := turn :: ts } = .next { u with sched := ts } := by
        rw [step_cons rfl]
        show takeTurn turn { s with sched := ts } = _
        rw [takeTurn_withSched, hu]; rfl
      exact runsTo_succ hs (ih h)
    | fault f => rw [hu] at h; cases h
    | refused r => rw [hu] at h; cases h

/-- R142: an idle engine's turn changes nothing. -/
theorem takeTurn_engine_idle {s : State} (h : s.phase = .idle) : takeTurn .engine s = .next s := by
  simp [takeTurn, engineTurn, fetchMicroOp, h]

/-- R53: the engine has a step enabled exactly when PHASE is not IDLE. -/
theorem turnEnabled_engine {s : State} : turnEnabled .engine s = true ↔ s.phase ≠ .idle := busy_eq_true

/-- An operation that is not performed again: one transaction after the engine turns of its gap. -/
theorem perform_cons {g : Nat} {gs : List Nat} {op : HostOp} {ops : List HostOp} {s t : State}
    (h : takeTurns (List.replicate g .engine ++ [.edge (Pins.ofWord op.word)]) s = .next t) :
    perform (g :: gs) (op :: ops) s = perform gs (if op.repeats t.rdata then op :: ops else ops) t := by
  rw [perform, h]

end Sys2Proof.Machine
end

