-- ==== Sys2Proof/Laws/PerInstr.lean ====
section
/-! SUPPORT. Facts about the instructions as syntax, one lemma for each constructor. Family EncodeMatchesRow: the
canonical word of a well-formed instruction matches the mask and pattern of its row in the opcode map (R61, R63). -/

namespace Sys2Proof.Laws.EncodeMatchesRow

/-- The word of a well-formed instruction matches its row. -/
def Statement (i : Instr) : Prop := i.wf = true → i.row.hits (encode i) = true

theorem keyexp (ksz : BitVec 2) : Statement (.keyexp ksz) := fun _ => by revert ksz; decide

theorem encrypt : Statement .encrypt := fun _ => by decide

theorem decrypt : Statement .decrypt := fun _ => by decide

theorem cmdIllegal (d : Byte) : Statement (.cmdIllegal d) := fun _ => by revert d; decide +kernel

theorem wrKeyin (d : Byte) : Statement (.wrKeyin d) := fun _ => by revert d; decide +kernel

theorem wrDin (d : Byte) : Statement (.wrDin d) := fun _ => by revert d; decide +kernel

theorem rdStatus : Statement .rdStatus := fun _ => by decide

theorem rdErrcode : Statement .rdErrcode := fun _ => by decide

theorem rdErrinfo : Statement .rdErrinfo := fun _ => by decide

theorem rdKcnt : Statement .rdKcnt := fun _ => by decide

theorem rdDcnt : Statement .rdDcnt := fun _ => by decide

theorem rdDout (j : BitVec 4) : Statement (.rdDout j) := fun _ => by revert j; decide

theorem accessIgnored (w : Bool) (a : BitVec 5) (d : Byte) : Statement (.accessIgnored w a d) := fun _ => by
  simp [Row.hits, Instr.row]

theorem kxw : Statement .kxw := fun _ => by decide

theorem ark (rnd : Fin 15) : Statement (.ark rnd) := fun _ => by revert rnd; decide

theorem sb : Statement .sb := fun _ => by decide

theorem isb : Statement .isb := fun _ => by decide

theorem sr : Statement .sr := fun _ => by decide

theorem isr : Statement .isr := fun _ => by decide

theorem mc : Statement .mc := fun _ => by decide

theorem imc : Statement .imc := fun _ => by decide

end Sys2Proof.Laws.EncodeMatchesRow
end

