-- ==== Sys2Proof/Tests/Slice0.lean ====
section
/-! SUPPORT. Tests on fixed values, each expected value copied from spec/95_test_vectors.md or the rule named; and for
every statement with hypotheses a witness, named after it, that meets them. -/

namespace Sys2Proof.Tests

/- One theorem at a time: each kernel evaluation in the background holds a thread and its stack. -/
set_option Elab.async false

open Sys2Proof Sys2Proof.Machine

/-! Values written as the spec displays them: byte 0 first (00_scope R11, R12). -/

def hexBlock (n : BitVec 128) : Vector Byte 16 := Vector.ofFn fun i => n.extractLsb' (120 - 8 * i.val) 8

def hexKey (n : BitVec 256) : Vector Byte 32 := Vector.ofFn fun i => n.extractLsb' (248 - 8 * i.val) 8

def hexWord (n : BitVec 32) : Word :=
  ⟨n.extractLsb' 24 8, n.extractLsb' 16 8, n.extractLsb' 8 8, n.extractLsb' 0 8⟩

def hexMat (n : BitVec 128) : Mat := loadMat (hexBlock n)

/-- A field of the next state, where there is one. -/
def after {α : Type} (o : Host.Outcome State Fault Refusal) (f : State → α) : Option α :=
  match o with
  | .next s => some (f s)
  | .fault _ => none
  | .refused _ => none

/-- The outcome is this fault. -/
def faultOf (o : Host.Outcome State Fault Refusal) : Option Fault :=
  match o with
  | .next _ => none
  | .fault f => some f
  | .refused _ => none

/-- V1: the key and the schedule words that the vectors of Part 2 use. -/
def keyV1 : Vector Byte 32 := hexKey 0x2b7e151628aed2a6abf7158809cf4f3c00000000000000000000000000000000

/-- The key 00 01 02 ... of V2, V3 and V4. -/
def keyCount : Vector Byte 32 := hexKey 0x000102030405060708090a0b0c0d0e0f101112131415161718191a1b1c1d1e1f

/-- A schedule as the store that KEYEXP leaves, the words past it zero. -/
def storeOf (ks : KeySize) (k : Vector Byte 32) : Vector Word 60 :=
  let l := expand ks k
  Vector.ofFn fun i => l.getD i.val Word.zero

/-- The schedule words of V6 that the tests read: W[0..7] and W[40..43]. -/
def wV6 : Vector Word 60 :=
  Vector.ofFn fun i => ([hexWord 0x2b7e1516, hexWord 0x28aed2a6, hexWord 0xabf71588, hexWord 0x09cf4f3c,
    hexWord 0xa0fafe17, hexWord 0x88542cb1, hexWord 0x23a33939, hexWord 0x2a6c7605] ++
    List.replicate 32 Word.zero ++
    [hexWord 0xd014f9a8, hexWord 0xc9ee2589, hexWord 0xe13f0cc8, hexWord 0xb6630ca6]).getD i.val Word.zero

/-! States. -/

/-- After reset and the push of `n` bytes of `k`. -/
def keyed (n : BitVec 6) (k : Vector Byte 32) : State := { State.reset with kbuf := k, kcnt := n }

/-- After reset and the push of `n` bytes of a block. -/
def blocked (n : BitVec 5) (b : Vector Byte 16) : State := { State.reset with dbuf := b, dcnt := n }

/-- "V1 key expanded", with `n` bytes of a block pushed. -/
def ready (n : BitVec 5) (b : Vector Byte 16) : State :=
  { State.reset with W := wV6, keyReady := true, ki := 44, dbuf := b, dcnt := n }

/-- An encryption under V1's key at micro-op `u`, with State `m`. -/
def running (u : BitVec 6) (m : Mat) : State :=
  { State.reset with W := wV6, keyReady := true, ki := 44, phase := .enc, upc := u, S := m }

/-- A key expansion of the given size that has come to word `i`. -/
def expanding (code : BitVec 2) (i : BitVec 6) (w : Vector Word 60) : State :=
  { State.reset with phase := .keyexp, ksz := code, ki := i, W := w }

/-- "V1 encryption completed". -/
def finished : State :=
  { State.reset with W := wV6, keyReady := true, ki := 44, upc := 40, outValid := true,
                     out := hexBlock 0x3925841d02dc09fbdc118597196a0b32 }

/-! WellFormed: an ill-formed term for each check. -/

theorem test_wf_refuses_an_illegal_command_that_is_a_command : (Instr.cmdIllegal 0x21).wf = false := by decide
theorem test_wf_refuses_an_ignored_read_of_status : (Instr.accessIgnored false 0x01 0x00).wf = false := by decide
theorem test_wf_refuses_an_ignored_read_of_dout : (Instr.accessIgnored false 0x10 0x00).wf = false := by decide
theorem test_wf_refuses_an_ignored_read_with_data : (Instr.accessIgnored false 0x08 0x55).wf = false := by decide
theorem test_wf_refuses_an_ignored_write_of_ctrl : (Instr.accessIgnored true 0x00 0x04).wf = false := by decide
theorem test_wf_refuses_an_ignored_write_of_keyin : (Instr.accessIgnored true 0x04 0x00).wf = false := by decide
theorem test_wf_refuses_an_ignored_write_of_din : (Instr.accessIgnored true 0x06 0x00).wf = false := by decide
theorem test_wf_admits_the_ignored_accesses :
    (Instr.accessIgnored true 0x1f 0x55).wf = true ∧ (Instr.accessIgnored false 0x0f 0x00).wf = true ∧
      (Instr.cmdIllegal 0x12).wf = true := by decide

/-! Decoding: the words of 95_test_vectors B, and the micro-op words of 30_encoding R61. -/

theorem test_decode_keyexp :
    decode .bus 0x2001 = .ok (.keyexp 0b00) ∧ decode .bus 0x2011 = .ok (.keyexp 0b01) ∧
      decode .bus 0x2021 = .ok (.keyexp 0b10) ∧ decode .bus 0x2031 = .ok (.keyexp 0b11) := by decide

theorem test_decode_encrypt_and_decrypt :
    decode .bus 0x2002 = .ok .encrypt ∧ decode .bus 0x2003 = .ok .decrypt := by decide

theorem test_decode_cmd_illegal :
    decode .bus 0x2000 = .ok (.cmdIllegal 0x00) ∧ decode .bus 0x2004 = .ok (.cmdIllegal 0x04) ∧
      decode .bus 0x2009 = .ok (.cmdIllegal 0x09) ∧ decode .bus 0x2012 = .ok (.cmdIllegal 0x12) ∧
      decode .bus 0x2041 = .ok (.cmdIllegal 0x41) ∧ decode .bus 0x20ff = .ok (.cmdIllegal 0xff) := by decide

theorem test_decode_pushes :
    decode .bus 0x2402 = .ok (.wrKeyin 0x02) ∧ decode .bus 0x2655 = .ok (.wrDin 0x55) := by decide

theorem test_decode_reads :
    decode .bus 0x0100 = .ok .rdStatus ∧ decode .bus 0x0155 = .ok .rdStatus ∧ decode .bus 0x0200 = .ok .rdErrcode ∧
      decode .bus 0x0300 = .ok .rdErrinfo ∧ decode .bus 0x0500 = .ok .rdKcnt ∧ decode .bus 0x0700 = .ok .rdDcnt ∧
      decode .bus 0x1000 = .ok (.rdDout 0) ∧ decode .bus 0x1f00 = .ok (.rdDout 15) := by decide

theorem test_decode_access_ignored :
    decode .bus 0x0000 = .ok (.accessIgnored false 0x00 0x00) ∧
      decode .bus 0x0400 = .ok (.accessIgnored false 0x04 0x00) ∧
      decode .bus 0x0600 = .ok (.accessIgnored false 0x06 0x00) ∧
      decode .bus 0x0800 = .ok (.accessIgnored false 0x08 0x00) ∧
      decode .bus 0x0f00 = .ok (.accessIgnored false 0x0f 0x00) ∧
      decode .bus 0x2100 = .ok (.accessIgnored true 0x01 0x00) ∧
      decode .bus 0x2500 = .ok (.accessIgnored true 0x05 0x00) ∧
      decode .bus 0x3000 = .ok (.accessIgnored true 0x10 0x00) ∧
      decode .bus 0x3f55 = .ok (.accessIgnored true 0x1f 0x55) := by decide

theorem test_decode_uop :
    decode .uop 0x10 = .ok .kxw ∧ decode .uop 0x20 = .ok (.ark 0) ∧ decode .uop 0x2e = .ok (.ark 14) ∧
      decode .uop 0x30 = .ok .sb ∧ decode .uop 0x40 = .ok .isb ∧ decode .uop 0x50 = .ok .sr ∧
      decode .uop 0x60 = .ok .isr ∧ decode .uop 0x70 = .ok .mc ∧ decode .uop 0x80 = .ok .imc := by decide

/-- R64: the kinds that no micro-program holds. -/
theorem test_decode_refuses_the_unused_uops :
    decode .uop 0x00 = .error .unusedKind ∧ decode .uop 0x90 = .error .unusedKind ∧
      decode .uop 0xf0 = .error .unusedKind ∧ decode .uop 0x2f = .error .roundOutOfRange ∧
      decode .uop 0x110 = .error .wordTooWide ∧ decode .bus 0x4100 = .error .wordTooWide := by decide

theorem test_encode_writes_the_words_of_the_spec :
    encode (.keyexp 0b10) = 0x2021 ∧ encode (.wrDin 0x55) = 0x2655 ∧ encode (.rdDout 15) = 0x1f00 ∧
      encode (.accessIgnored true 0x1f 0x55) = 0x3f55 ∧ encode (.ark 10) = 0x2a ∧ encode .imc = 0x80 := by decide

theorem test_decode_table_word :
    decodeTableWord 16 0x2021 = some (.keyexp 0b10) ∧ decodeTableWord 8 0x2a = some (.ark 10) ∧
      decodeTableWord 16 0x4100 = none ∧ decodeTableWord 8 0x00 = none := by decide

/-! Functions. -/

/-- 95_test_vectors G. -/
theorem test_xtime : xtime 0x57 = 0xae ∧ xtime 0x80 = 0x1b ∧ xtime 0xff = 0xe5 ∧ xtime 0x7f = 0xfe := by decide

/-- 95_test_vectors G. -/
theorem test_gmul :
    gmul 0x57 0x83 = 0xc1 ∧ gmul 0x57 0x13 = 0xfe ∧ gmul 0xff 0xff = 0x13 ∧ gmul 0x80 0x80 = 0x9a ∧
      gmul 0x0e 0xdb = 0x6e ∧ gmul 0xa5 0x00 = 0x00 := by decide

/-- 95_test_vectors T. -/
theorem test_sbox :
    sbox 0x00 = 0x63 ∧ sbox 0x10 = 0xca ∧ sbox 0x53 = 0xed ∧ sbox 0xc9 = 0xdd ∧ sbox 0xff = 0x16 := by decide

/-- 95_test_vectors T. -/
theorem test_isbox :
    isbox 0x00 = 0x52 ∧ isbox 0x10 = 0x7c ∧ isbox 0x63 = 0x00 ∧ isbox 0x8d = 0xb4 ∧ isbox 0xff = 0x7d := by decide

/-- 95_test_vectors K. -/
theorem test_rot_word_and_sub_word :
    rotWord (hexWord 0x09cf4f3c) = hexWord 0xcf4f3c09 ∧ subWord (hexWord 0xcf4f3c09) = hexWord 0x8a84eb01 := by decide

/-- V6, V8 and V9: words of the three schedules. -/
theorem test_expand_128 :
    (expand .k128 keyV1)[4]? = some (hexWord 0xa0fafe17) ∧ (expand .k128 keyV1)[43]? = some (hexWord 0xb6630ca6) ∧
      (expand .k128 keyV1).length = 44 := by decide +kernel

theorem test_expand_192 :
    (expand .k192 keyCount)[12]? = some (hexWord 0x40f949b3) ∧
      (expand .k192 keyCount)[51]? = some (hexWord 0xe3a41d5d) ∧ (expand .k192 keyCount).length = 52 := by
  decide +kernel

theorem test_expand_256 :
    (expand .k256 keyCount)[12]? = some (hexWord 0x1651a8cd) ∧
      (expand .k256 keyCount)[59]? = some (hexWord 0x6d68de36) ∧ (expand .k256 keyCount).length = 60 := by
  decide +kernel

/-- V1: the source's first known-answer test, in both directions. -/
theorem test_known_answer_v1 :
    cipher (storeOf .k128 keyV1) 10 (hexBlock 0x3243f6a8885a308d313198a2e0370734) =
        hexBlock 0x3925841d02dc09fbdc118597196a0b32 ∧
      invCipher (storeOf .k128 keyV1) 10 (hexBlock 0x3925841d02dc09fbdc118597196a0b32) =
        hexBlock 0x3243f6a8885a308d313198a2e0370734 := by decide +kernel

/-- V2: the source's second known-answer test. -/
theorem test_known_answer_v2 :
    cipher (storeOf .k128 keyCount) 10 (hexBlock 0x00112233445566778899aabbccddeeff) =
      hexBlock 0x69c4e0d86a7b0430d8cdb78070b4c55a := by decide +kernel

/-- V3. -/
theorem test_known_answer_v3 :
    cipher (storeOf .k192 keyCount) 12 (hexBlock 0x00112233445566778899aabbccddeeff) =
      hexBlock 0xdda97ca4864cdfe06eaf70a0ec0d7191 := by decide +kernel

/-- V4. -/
theorem test_known_answer_v4 :
    cipher (storeOf .k256 keyCount) 14 (hexBlock 0x00112233445566778899aabbccddeeff) =
      hexBlock 0x8ea2b7ca516745bfeafc49904b496089 := by decide +kernel

/-- 95_test_vectors E: the micro-programs of Nr = 10. -/
theorem test_uprog_enc :
    uprogEnc 10 = [0x20, 0x30, 0x50, 0x70, 0x21, 0x30, 0x50, 0x70, 0x22, 0x30, 0x50, 0x70, 0x23, 0x30, 0x50, 0x70,
      0x24, 0x30, 0x50, 0x70] ++ [0x25, 0x30, 0x50, 0x70, 0x26, 0x30, 0x50, 0x70, 0x27, 0x30, 0x50, 0x70, 0x28, 0x30,
      0x50, 0x70, 0x29, 0x30, 0x50, 0x2a] := by decide

theorem test_uprog_dec :
    uprogDec 10 = [0x2a, 0x60, 0x40, 0x29, 0x80, 0x60, 0x40, 0x28, 0x80, 0x60, 0x40, 0x27, 0x80, 0x60, 0x40, 0x26,
      0x80, 0x60, 0x40, 0x25] ++ [0x80, 0x60, 0x40, 0x24, 0x80, 0x60, 0x40, 0x23, 0x80, 0x60, 0x40, 0x22, 0x80, 0x60,
      0x40, 0x21, 0x80, 0x60, 0x40, 0x20] := by decide

/-! Commands, pushes and reads: 95_test_vectors B, "single transactions from named states". -/

theorem test_keyexp_accepted :
    after (exec (.keyexp 0b00) (keyed 16 keyV1)) (fun t => (t.errcode, statusByte t, t.phase, t.ki, t.kcnt)) =
      some (0x00, 0x01, .keyexp, 4, 0) ∧
    after (exec (.keyexp 0b00) (keyed 16 keyV1)) (fun t => wordAt t.W 3) = some (hexWord 0x09cf4f3c) := by
  decide +kernel

theorem test_keyexp_refused :
    after (exec (.keyexp 0b01) (keyed 16 keyV1)) (fun t => (t.errcode, t.errinfo, statusByte t, t.kcnt)) =
      some (0x04, 0x10, 0x08, 0) ∧
    after (exec (.keyexp 0b11) (keyed 32 keyCount)) (fun t => (t.errcode, t.errinfo, statusByte t)) =
      some (0x03, 0x00, 0x08) ∧
    after (exec (.keyexp 0b10) (keyed 63 keyCount)) (fun t => (t.errcode, t.errinfo)) = some (0x04, 0x3f) := by
  decide +kernel

theorem test_encrypt_accepted :
    after (exec .encrypt (ready 16 (hexBlock 0x3243f6a8885a308d313198a2e0370734)))
      (fun t => (t.errcode, statusByte t, t.phase, t.upc, t.dcnt)) = some (0x00, 0x03, .enc, 0, 0) := by decide +kernel

theorem test_encrypt_refused :
    after (exec .encrypt (ready 15 (hexBlock 0))) (fun t => (t.errcode, t.errinfo, statusByte t, t.dcnt)) =
      some (0x05, 0x0f, 0x0a, 0) ∧
    after (exec .encrypt (blocked 15 (hexBlock 0))) (fun t => (t.errcode, t.errinfo, statusByte t, t.dcnt)) =
      some (0x06, 0x00, 0x08, 0) ∧
    after (exec .encrypt (running 17 Mat.zero)) (fun t => (t.errcode, statusByte t, t.phase)) =
      some (0x01, 0x0b, .enc) := by decide +kernel

theorem test_decrypt_accepted :
    after (exec .decrypt (ready 16 (hexBlock 0x000102030405060708090a0b0c0d0e0f)))
      (fun t => (t.errcode, statusByte t, t.phase, t.S.get 1 2)) = some (0x00, 0x03, .dec, 0x09) := by decide +kernel

theorem test_decrypt_refused :
    after (exec .decrypt (ready 17 (hexBlock 0))) (fun t => (t.errcode, t.errinfo, statusByte t)) =
      some (0x05, 0x11, 0x0a) := by decide +kernel

theorem test_cmd_illegal :
    after (exec (.cmdIllegal 0x09) (keyed 16 keyV1)) (fun t => (t.errcode, t.errinfo, statusByte t, t.kcnt)) =
      some (0x02, 0x00, 0x08, 16) ∧
    after (exec (.cmdIllegal 0x04) (running 17 Mat.zero)) (fun t => (t.errcode, statusByte t)) =
      some (0x01, 0x0b) := by decide +kernel

theorem test_wr_keyin :
    after (exec (.wrKeyin 0xaa) (keyed 31 keyCount)) (fun t => (t.kcnt, byteAt t.kbuf 31)) = some (32, 0xaa) ∧
    after (exec (.wrKeyin 0xaa) (keyed 32 keyCount)) (fun t => (t.kcnt, byteAt t.kbuf 31)) = some (33, 0x1f) ∧
    after (exec (.wrKeyin 0xaa) (keyed 63 keyCount)) (fun t => t.kcnt) = some 63 := by decide +kernel

theorem test_wr_din :
    after (exec (.wrDin 0xaa) (blocked 15 (hexBlock 0))) (fun t => (t.dcnt, byteAt t.dbuf 15)) = some (16, 0xaa) ∧
    after (exec (.wrDin 0xaa) (blocked 16 (hexBlock 0))) (fun t => (t.dcnt, byteAt t.dbuf 15)) = some (17, 0x00) ∧
    after (exec (.wrDin 0xaa) (blocked 31 (hexBlock 0))) (fun t => t.dcnt) = some 31 := by decide +kernel

theorem test_rd_status :
    after (exec .rdStatus finished) (fun t => (t.rdata, t.reads)) = some (some 0x06, [0x06]) ∧
    after (exec .rdStatus (running 17 Mat.zero)) (·.rdata) = some (some 0x03) ∧
    after (exec .rdStatus State.reset) (·.rdata) = some (some 0x00) := by decide +kernel

theorem test_rd_errcode :
    after (exec .rdErrcode { State.reset with errcode := 0x05, errinfo := 0x0f }) (·.rdata) = some (some 0x05) := by
  decide +kernel

theorem test_rd_errinfo :
    after (exec .rdErrinfo { State.reset with errcode := 0x05, errinfo := 0x0f }) (·.rdata) = some (some 0x0f) := by
  decide +kernel

theorem test_rd_kcnt : after (exec .rdKcnt (keyed 20 keyCount)) (·.rdata) = some (some 0x14) := by decide +kernel

theorem test_rd_dcnt : after (exec .rdDcnt (blocked 31 (hexBlock 0))) (·.rdata) = some (some 0x1f) := by decide +kernel

theorem test_rd_dout :
    after (exec (.rdDout 0) finished) (·.rdata) = some (some 0x39) ∧
    after (exec (.rdDout 15) finished) (·.rdata) = some (some 0x32) := by decide +kernel

theorem test_access_ignored :
    after (exec (.accessIgnored false 0x04 0x00) finished) (·.rdata) = some (some 0x00) ∧
    after (exec (.accessIgnored true 0x10 0xff) finished) (fun t => byteAt t.out 0) = some 0x39 := by decide +kernel

/-! Micro-operations: 95_test_vectors K and R. -/

/-- The AES-128 word 4, the AES-256 word 12 (the SubWord case) and the completion at the last word. -/
theorem test_kxw :
    after (exec .kxw (expanding 0b00 4 wV6)) (fun t => (wordAt t.W 4, t.ki)) = some (hexWord 0xa0fafe17, 5) ∧
    after (exec .kxw (expanding 0b10 12 (Vector.ofFn fun i =>
      if i.val = 11 then hexWord 0xa572c09c else if i.val = 4 then hexWord 0x10111213 else Word.zero)))
      (fun t => wordAt t.W 12) = some (hexWord 0x1651a8cd) := by decide +kernel

theorem test_kxw_completes :
    after (exec .kxw (expanding 0b01 51 (Vector.ofFn fun i =>
      if i.val = 50 then hexWord 0xc418c271 else if i.val = 45 then hexWord 0x27bcdf2c else Word.zero)))
      (fun t => (wordAt t.W 51, t.ki, t.phase, statusByte t)) =
      some (hexWord 0xe3a41d5d, 52, .idle, 0x12) := by decide +kernel

theorem test_sb :
    after (exec .sb (running 1 (hexMat 0x193de3bea0f4e22b9ac68d2ae9f84808))) (fun t => (t.S, t.upc)) =
      some (hexMat 0xd42711aee0bf98f1b8b45de51e415230, 2) := by decide +kernel

theorem test_isb :
    after (exec .isb (running 1 (hexMat 0xd42711aee0bf98f1b8b45de51e415230))) (·.S) =
      some (hexMat 0x193de3bea0f4e22b9ac68d2ae9f84808) := by decide +kernel

theorem test_sr :
    after (exec .sr (running 2 (hexMat 0x000102030405060708090a0b0c0d0e0f))) (·.S) =
      some (hexMat 0x00050a0f04090e03080d02070c01060b) := by decide +kernel

theorem test_isr :
    after (exec .isr (running 2 (hexMat 0x000102030405060708090a0b0c0d0e0f))) (·.S) =
      some (hexMat 0x000d0a0704010e0b0805020f0c090603) := by decide +kernel

theorem test_mc :
    after (exec .mc (running 3 (hexMat 0xd4bf5d30e0b452aeb84111f11e2798e5))) (·.S) =
      some (hexMat 0x046681e5e0cb199a48f8d37a2806264c) := by decide +kernel

theorem test_imc :
    after (exec .imc (running 3 (hexMat 0x046681e5e0cb199a48f8d37a2806264c))) (·.S) =
      some (hexMat 0xd4bf5d30e0b452aeb84111f11e2798e5) ∧
    after (exec .imc (running 3 (hexMat 0xdb135345f20a225cd4d4d4d580000000))) (·.S) =
      some (hexMat 0x32a41d55aec36982ddd9dfda41ecdaf7) := by decide +kernel

theorem test_ark :
    after (exec (.ark 1) (running 4 (hexMat 0x046681e5e0cb199a48f8d37a2806264c))) (·.S) =
      some (hexMat 0xa49c7ff2689f352b6b5bea43026a5049) := by decide +kernel

/-- V10, round 10: the last micro-op of the V1 encryption completes it. -/
theorem test_ark_completes :
    after (exec (.ark 10) (running 39 (hexMat 0xe9317db5cb322c723d2e895faf090794)))
      (fun t => (t.out, t.S, t.upc, t.phase, statusByte t)) =
      some (hexBlock 0x3925841d02dc09fbdc118597196a0b32, Mat.zero, 40, .idle, 0x06) := by decide +kernel

/-! Turns. -/

/-- 95_test_vectors Z: a reset in the cycle of `WR KEYIN, 0x2b` loses the push. -/
theorem test_reset_edge_loses_the_push :
    after (step { running 17 Mat.zero with sched := [.edge ⟨true, true, false, 0x04, 0x2b⟩] })
      (fun t => (t.kcnt, t.phase, t.keyReady, t.sched)) = some (0, .idle, false, []) := by decide +kernel

/-- R102: a cycle with both strobes performs the write only, and rdata is 0x00. -/
theorem test_both_strobes :
    after (step { State.reset with sched := [.edge ⟨false, true, true, 0x04, 0x2b⟩] })
      (fun t => (t.kcnt, t.rdata, t.reads)) = some (1, some 0x00, []) := by decide +kernel

/-- V12: the first engine step of the V2 encryption is ARK(0), taken when no host step is scheduled. -/
theorem test_engine_turn :
    after (step { running 0 (hexMat 0x00112233445566778899aabbccddeeff) with W := loadKeyWords 4 keyCount wV6 })
      (fun t => (t.S, t.upc, t.phase)) = some (hexMat 0x00102030405060708090a0b0c0d0e0f0, 1, .enc) := by decide +kernel

theorem test_idle_engine_holds : after (step State.reset) id = some State.reset := by decide +kernel

/-- A placed word is the one that runs: a transaction, and micro-ops from reset. -/
theorem test_with_fetch_word :
    after (step (State.reset.withFetchWord 16 0x2402)) (fun t => (t.kcnt, byteAt t.kbuf 0)) = some (1, 0x02) ∧
    after (step (State.reset.withFetchWord 8 0x30)) (fun t => (t.S.get 0 0, t.upc)) = some (0x63, 2) ∧
    after (step (State.reset.withFetchWord 8 0x10)) (fun t => t.ki) = some 5 ∧
    after (step (State.reset.withFetchWord 8 0x2e)) (fun t => (t.phase, t.ksz)) = some (.idle, 0b10) := by
  decide +kernel

/-! Host programs: 45_host_interface R117, 30_encoding R68. -/

/-- R117, R127, R128, R130: the refusals of the source's calls, from reset. -/
theorem test_call_refusals :
    (Call.new 512 [0x2b]).run [0, 0, 0, 0, 0] State.reset = some (.configurationError .badKeysize 0x00) ∧
    (Call.new 128 [0x2b]).run [0, 0, 0, 0, 0] State.reset = some (.configurationError .keyLen 0x01) ∧
    (Call.encrypt []).run (List.replicate 20 0) State.reset = some (.usageError .noKey 0x00) := by decide +kernel

/-- R117: the successes, from the values that the reads of P1 return. -/
theorem test_call_successes :
    (Call.new 128 []).outcome [0x01, 0x01, 0x02, 0x00, 0x00] = some .constructed ∧
    (Call.encrypt []).outcome ([0x03, 0x06, 0x00, 0x00] ++ (hexBlock 0x69c4e0d86a7b0430d8cdb78070b4c55a).toList) =
      some (.output (hexBlock 0x69c4e0d86a7b0430d8cdb78070b4c55a).toList) := by decide +kernel

/-- R68: WAIT_IDLE reads STATUS until bit 0 is 0, here once before and once after the last micro-op. -/
theorem test_wait_idle :
    (perform [0, 1, 0] [.waitIdle, .bus (rd .errcode)] (running 39 Mat.zero)).map (after · (·.reads)) =
      some (some [0x03, 0x06, 0x00]) := by decide +kernel

/-! Witnesses: for each statement with hypotheses, values that meet them all, at the boundaries of its clauses. -/

/-- A clock edge that carries a transaction word. -/
def edgeOf (t : BitVec 14) : Turn := .edge (Pins.ofWord t)

/-- The next state of a meaning or a step, where there is one; else the state itself. -/
def nextOf (o : Host.Outcome State Fault Refusal) (s : State) : State := (after o id).getD s

theorem nextOf_eq {o : Host.Outcome State Fault Refusal} (s : State) (h : (after o id).isSome = true) :
    o = .next (nextOf o s) := by
  cases o with
  | next t => rfl
  | fault f => cases h
  | refused r => cases h

theorem witness_DecodingAnEncodingGivesTheInstructionBack :
    (Instr.accessIgnored true 0x1f 0xff).wf = true ∧ (Instr.accessIgnored false 0x0f 0x00).wf = true ∧
      (Instr.cmdIllegal 0xff).wf = true ∧ (Instr.ark 14).wf = true := by decide

theorem witness_TransactionsDecodeByTheFirstMatchingRow :
    (Instr.cmdIllegal 0).row ∈ busRows ∧ (Instr.cmdIllegal 0).row.hits 0x2002 = true ∧
      (Instr.cmdIllegal 0).row ≠ (decodeBus 0x2002).row := by decide

theorem witness_ExactlySixBytesAreCommands :
    (0x12 : Byte) ∉ [(0x01 : Byte), 0x11, 0x21, 0x31, 0x02, 0x03] := by decide

theorem witness_MicroOpWordsDecodeByTheirKind :
    ((0x0 : BitVec 4).toNat = 0 ∨ 9 ≤ (0x0 : BitVec 4).toNat) ∧ ((0x9 : BitVec 4).toNat = 0 ∨ 9 ≤ (0x9 : BitVec 4).toNat) := by
  decide

theorem witness_AnEdgePerformsTheDecodedTransaction :
    ∃ (s : State) (p : Pins) (rest : List Turn) (t : BitVec 14),
      s.sched = .edge p :: rest ∧ p.rst = false ∧ p.transaction = some t :=
  ⟨{ finished with sched := [edgeOf 0x1f00, .engine] }, Pins.ofWord 0x1f00, [.engine], 0x1f00, rfl, rfl, rfl⟩

theorem witness_AnEngineTurnPerformsTheFetchedMicroOp_scheduled :
    ∃ (s : State) (rest : List Turn) (ks : KeySize) (u : Byte) (i : Instr),
      s.sched = .engine :: rest ∧ KeySize.ofCode s.ksz = some ks ∧ decodeUop u = .ok i ∧ s.phase = .enc ∧
        (uprogEnc ks.nr)[s.upc.toNat]? = some u :=
  ⟨{ running 39 Mat.zero with sched := [.engine, edgeOf 0x0100] }, [edgeOf 0x0100], .k128, 0x2a, .ark 10,
    rfl, rfl, by decide, rfl, by decide⟩

theorem witness_AnEngineTurnPerformsTheFetchedMicroOp_unscheduled :
    ∃ (s : State) (rest : List Turn) (ks : KeySize) (u : Byte) (i : Instr),
      (s.sched = [] ∧ rest = []) ∧ KeySize.ofCode s.ksz = some ks ∧ decodeUop u = .ok i ∧ s.phase = .dec ∧
        (uprogDec ks.nr)[s.upc.toNat]? = some u :=
  ⟨{ running 0 Mat.zero with phase := .dec, ksz := 0b10 }, [], .k256, 0x2e, .ark 14,
    ⟨rfl, rfl⟩, rfl, by decide, rfl, by decide⟩

theorem witness_EveryTransactionCompletesInItsStep :
    ∃ (s : State) (p : Pins) (rest : List Turn) (t : BitVec 14),
      s.sched = .edge p :: rest ∧ p.rst = false ∧ p.transaction = some t ∧ busW t = true ∧ s.phase ≠ .idle :=
  ⟨{ running 39 Mat.zero with sched := [edgeOf 0x2002] }, Pins.ofWord 0x2002, [], 0x2002, rfl, rfl, rfl, rfl,
    by decide⟩

theorem witness_BothStrobesWriteOnlyAndNeitherDoesNothing :
    ∃ (s₁ s₂ s₃ : State) (p₁ p₂ p₃ : Pins),
      (s₁.sched = [.edge p₁] ∧ p₁.rst = false ∧ p₁.wrEn = true ∧ p₁.rdEn = true) ∧
      (s₂.sched = [.edge p₂] ∧ p₂.rst = false ∧ p₂.wrEn = false ∧ p₂.rdEn = true) ∧
      (s₃.sched = [.edge p₃] ∧ p₃.rst = false ∧ p₃.wrEn = false ∧ p₃.rdEn = false) :=
  ⟨{ State.reset with sched := [.edge ⟨false, true, true, 0x00, 0x01⟩] },
    { State.reset with sched := [.edge ⟨false, false, true, 0x01, 0xff⟩] },
    { State.reset with sched := [.edge ⟨false, false, false, 0x00, 0x01⟩] }, _, _, _,
    ⟨rfl, rfl, rfl, rfl⟩, ⟨rfl, rfl, rfl, rfl⟩, ⟨rfl, rfl, rfl, rfl⟩⟩

theorem witness_AResetEdgeClearsEveryElement :
    ∃ (s : State) (p : Pins) (rest : List Turn), s.sched = .edge p :: rest ∧ p.rst = true ∧ p.rdEn = true ∧
      s.phase = .enc :=
  ⟨{ running 17 Mat.zero with sched := [.edge ⟨true, false, true, 0x10, 0x00⟩] }, _, _, rfl, rfl, rfl, rfl⟩

theorem witness_APlacedWordIsRunByTheNextStep : (Instr.ark 14).format = .uop ∧ Instr.kxw.format = .uop := by decide

theorem witness_KeyexpFollowsItsRule :
    (running 17 Mat.zero).phase ≠ .idle ∧ (keyed 32 keyCount).phase = .idle ∧
    (KeySize.ofCode 0b00 = some .k128 ∧ (keyed 15 keyV1).kcnt.toNat ≠ 4 * KeySize.k128.nk ∧
      (keyed 17 keyV1).kcnt.toNat ≠ 4 * KeySize.k128.nk ∧ (keyed 16 keyV1).kcnt.toNat = 4 * KeySize.k128.nk) ∧
    (KeySize.ofCode 0b01 = some .k192 ∧ (keyed 24 keyCount).kcnt.toNat = 4 * KeySize.k192.nk) ∧
    (KeySize.ofCode 0b10 = some .k256 ∧ (keyed 32 keyCount).kcnt.toNat = 4 * KeySize.k256.nk ∧
      (keyed 63 keyCount).kcnt.toNat ≠ 4 * KeySize.k256.nk) := by decide +kernel

theorem witness_EncryptAndDecryptFollowTheirRules :
    (running 17 Mat.zero).phase ≠ .idle ∧
    ((blocked 16 (hexBlock 0)).phase = .idle ∧ (blocked 16 (hexBlock 0)).keyReady = false) ∧
    ((ready 15 (hexBlock 0)).phase = .idle ∧ (ready 15 (hexBlock 0)).keyReady = true ∧
      (ready 15 (hexBlock 0)).dcnt.toNat ≠ 16 ∧ (ready 17 (hexBlock 0)).dcnt.toNat ≠ 16 ∧
      (ready 16 (hexBlock 0)).dcnt.toNat = 16) := by decide +kernel

theorem witness_CmdIllegalFollowsItsRule :
    (0x00 : Byte) ∉ [(0x01 : Byte), 0x11, 0x21, 0x31, 0x02, 0x03] ∧ (running 17 Mat.zero).phase ≠ .idle ∧
      State.reset.phase = .idle := by decide

theorem witness_CommandsConsumeTheBufferTheyRead :
    (∃ t, (keyed 17 keyV1).phase = .idle ∧ exec (.keyexp 0b00) (keyed 17 keyV1) = .next t ∧ t.errcode = 0x04) ∧
    (∃ t, (ready 15 (hexBlock 0)).phase = .idle ∧ exec .decrypt (ready 15 (hexBlock 0)) = .next t ∧
      t.errcode = 0x05) ∧
    (∃ t, isCommand .encrypt = true ∧ exec .encrypt (running 39 Mat.zero) = .next t ∧
      (t.errcode = 0x01 ∨ t.errcode = 0x02)) ∧
    (∃ t, isCommand (.cmdIllegal 0x00) = true ∧ exec (.cmdIllegal 0x00) State.reset = .next t ∧
      (t.errcode = 0x01 ∨ t.errcode = 0x02)) :=
  ⟨⟨_, rfl, rfl, by decide +kernel⟩, ⟨_, rfl, rfl, by decide +kernel⟩, ⟨_, rfl, rfl, by decide +kernel⟩,
    ⟨_, rfl, rfl, by decide +kernel⟩⟩

theorem witness_PushedBytesLieInTheBufferInOrder :
    ∃ (bytes : List Byte) (s u : State), bytes.length = 33 ∧
      (s.sched = turnsOf (Pseudo.loadKey bytes).expand ∧ s.kcnt = 0) ∧
      (u.sched = turnsOf (Pseudo.loadBlk bytes).expand ∧ u.dcnt = 0) :=
  ⟨List.replicate 33 0x2b, { running 0 Mat.zero with sched := turnsOf (Pseudo.loadKey (List.replicate 33 0x2b)).expand },
    { State.reset with sched := turnsOf (Pseudo.loadBlk (List.replicate 33 0x2b)).expand }, by decide, ⟨rfl, rfl⟩,
    ⟨rfl, rfl⟩⟩

theorem witness_IgnoredAccessesDoNothing :
    (∀ n : Nat, n ∈ [0, 4, 6, 8, 15] → n = 0 ∨ n = 4 ∨ n = 6 ∨ (8 ≤ n ∧ n ≤ 15)) ∧
      ((0x1f : BitVec 5).toNat ≠ 0 ∧ (0x1f : BitVec 5).toNat ≠ 4 ∧ (0x1f : BitVec 5).toNat ≠ 6) := by decide

/-- KI at both ends of its range, for each key size. -/
theorem witness_KxwFollowsItsRule :
    ∀ p ∈ [((0b00 : BitVec 2), KeySize.k128, (4 : BitVec 6)), (0b00, .k128, 43), (0b01, .k192, 6), (0b01, .k192, 51),
        (0b10, .k256, 8), (0b10, .k256, 59)],
      KeySize.ofCode p.1 = some p.2.1 ∧ p.2.1.nk ≤ p.2.2.toNat ∧ p.2.2.toNat < 4 * (p.2.1.nr + 1) := by decide

/-- For the statements about SB, ISB, SR, ISR, MC, IMC and ARK before the last micro-op. -/
theorem witness_RoundOpsBeforeTheLast :
    KeySize.ofCode (running 0 Mat.zero).ksz = some .k128 ∧
      (running 0 Mat.zero).upc.toNat + 1 ≠ 4 * KeySize.k128.nr ∧
      (running 38 Mat.zero).upc.toNat + 1 ≠ 4 * KeySize.k128.nr := by decide +kernel

theorem witness_SubBytesFollowsItsRule :
    ∃ (s : State) (ks : KeySize), KeySize.ofCode s.ksz = some ks ∧ s.upc.toNat + 1 ≠ 4 * ks.nr :=
  ⟨running 38 Mat.zero, .k128, witness_RoundOpsBeforeTheLast.1, witness_RoundOpsBeforeTheLast.2.2⟩

theorem witness_ShiftRowsFollowsItsRule :
    ∃ (s : State) (ks : KeySize) (r c k : Fin 4), KeySize.ofCode s.ksz = some ks ∧ s.upc.toNat + 1 ≠ 4 * ks.nr ∧
      k.val = (c.val + r.val) % 4 ∧ k.val = (c.val + 4 - r.val) % 4 :=
  ⟨running 0 Mat.zero, .k128, 2, 3, 1, witness_RoundOpsBeforeTheLast.1, witness_RoundOpsBeforeTheLast.2.1, by decide,
    by decide⟩

theorem witness_MixColumnsFollowsItsRule :
    ∃ (s : State) (ks : KeySize), KeySize.ofCode s.ksz = some ks ∧ s.upc.toNat + 1 ≠ 4 * ks.nr :=
  witness_SubBytesFollowsItsRule

theorem witness_AddRoundKeyFollowsItsRule :
    ∃ (rnd : Fin 15) (c : Fin 4) (s : State) (ks : KeySize), KeySize.ofCode s.ksz = some ks ∧
      s.upc.toNat + 1 ≠ 4 * ks.nr ∧ 4 * rnd.val + c.val < 60 ∧ rnd = 14 ∧ c = 3 :=
  ⟨14, 3, running 38 Mat.zero, .k128, witness_RoundOpsBeforeTheLast.1, witness_RoundOpsBeforeTheLast.2.2, by decide,
    rfl, rfl⟩

theorem witness_TheLastMicroOpCompletesTheCommand :
    ∀ p ∈ [((0b00 : BitVec 2), KeySize.k128, (39 : BitVec 6)), (0b01, .k192, 47), (0b10, .k256, 55)],
      isRoundOp (.ark 0) = true ∧ KeySize.ofCode p.1 = some p.2.1 ∧ p.2.2.toNat + 1 = 4 * p.2.1.nr := by decide

theorem witness_MicroOpsStopWithoutAKeySizeOrAnIndex :
    (Instr.sb.format = .uop ∧ (expanding 0b11 4 wV6).ksz = 0b11) ∧
    (∀ ki ∈ [(0 : BitVec 6), 3, 44, 63], KeySize.ofCode 0b00 = some .k128 ∧
      (ki.toNat < KeySize.k128.nk ∨ 4 * (KeySize.k128.nr + 1) ≤ ki.toNat)) := by decide +kernel

theorem witness_GmulIsAssociativeWithUniqueInverses : (0x01 : Byte) ≠ 0x00 ∧ (0xff : Byte) ≠ 0x00 := by decide

theorem witness_SboxIsTheAffineMapOfTheInverse :
    (((0x00 : Byte) = 0x00 → (0x00 : Byte) = 0x00) ∧ ((0x00 : Byte) ≠ 0x00 → gmul 0x00 0x00 = 0x01)) ∧
    (((0x53 : Byte) = 0x00 → (0xca : Byte) = 0x00) ∧ ((0x53 : Byte) ≠ 0x00 → gmul 0x53 0xca = 0x01)) := by decide

theorem witness_RconIsThePowersOfTwo : (1 ≤ 1 ∧ 1 < 10) ∧ (1 ≤ 9 ∧ 9 < 10) ∧ 10 ≤ 10 := by decide

/-- The first and the last computed word, and the SubWord case of AES-256. -/
theorem witness_ExpandFollowsTheKeyScheduleRecurrence :
    (∃ prev back, KeySize.k128.nk ≤ 4 ∧ (expand .k128 keyV1)[4 - 1]? = some prev ∧
      (expand .k128 keyV1)[4 - KeySize.k128.nk]? = some back) ∧
    (∃ prev back, 12 % KeySize.k256.nk = 4 ∧ (expand .k256 keyCount)[12 - 1]? = some prev ∧
      (expand .k256 keyCount)[12 - KeySize.k256.nk]? = some back) ∧
    (∃ prev back, 59 < 4 * (KeySize.k256.nr + 1) ∧ (expand .k256 keyCount)[59 - 1]? = some prev ∧
      (expand .k256 keyCount)[59 - KeySize.k256.nk]? = some back) :=
  ⟨⟨_, _, by decide, rfl, rfl⟩, ⟨_, _, by decide, rfl, rfl⟩, ⟨_, _, by decide, rfl, rfl⟩⟩

theorem witness_MicroProgramsListTheRoundsInOrder : (1 ≤ 1 ∧ 1 ≤ 14) ∧ (1 ≤ 14 ∧ 14 ≤ 14) ∧ (1 ≤ 13 ∧ 13 < 14) := by
  decide

theorem witness_EachRegisterIsWrittenOnlyByItsRules :
    (∃ t, exec (.wrKeyin 0x2b) finished = .next t ∧ isRead (.wrKeyin 0x2b) = false) ∧
    (∃ t, exec (.ark 10) (running 39 Mat.zero) = .next t) ∧ (∃ t, exec .encrypt (ready 16 (hexBlock 0)) = .next t) ∧
    (∃ t, exec .kxw (expanding 0b00 43 wV6) = .next t) :=
  ⟨⟨_, rfl, rfl⟩, ⟨_, rfl⟩, ⟨_, rfl⟩, ⟨_, nextOf_eq State.reset (by decide +kernel)⟩⟩

theorem witness_NoHostStepDisturbsARunningCommand :
    (running 0 Mat.zero).phase ≠ .idle ∧ (expanding 0b00 43 wV6).phase ≠ .idle := by decide

theorem witness_PhaseChangesOnlyByAcceptanceCompletionOrReset :
    (∃ s t, step s = .next t ∧ t.phase ≠ s.phase ∧ s.phase = .idle) ∧
    (∃ s t, step s = .next t ∧ t.phase ≠ s.phase ∧ s.phase ≠ .idle) :=
  ⟨⟨{ ready 16 (hexBlock 0) with sched := [edgeOf 0x2002] }, _, nextOf_eq State.reset (by decide +kernel),
      by decide +kernel, rfl⟩,
    ⟨running 39 Mat.zero, _, nextOf_eq State.reset (by decide +kernel), by decide +kernel, by decide⟩⟩

/-- Two states the host cannot tell apart: they hold different keys, blocks and schedules, and run different commands. -/
theorem witness_HostTransactionsDependOnlyOnWhatTheHostCanRead :
    ∃ s t : State, SameView s t ∧ s ≠ t ∧ s.phase ≠ t.phase :=
  ⟨running 3 Mat.zero, { running 7 (hexMat 5) with phase := .dec, W := storeOf .k128 keyCount, kbuf := keyCount },
    fun r => by cases r <;> rfl, by decide +kernel, by decide⟩

theorem witness_ACommandAtCompletionIsRefusedOrAcceptedByOrder :
    ∃ (s : State) (ks : KeySize), s.phase = .enc ∧ KeySize.ofCode s.ksz = some ks ∧ s.upc.toNat + 1 = 4 * ks.nr ∧
      s.keyReady = true ∧ s.dcnt.toNat = 16 :=
  ⟨{ running 39 Mat.zero with dcnt := 16 }, .k128, rfl, rfl, by decide, rfl, by decide⟩

/-- A key expansion of AES-256 at its first word satisfies the invariant. -/
theorem inv_expanding : Inv (expanding 0b10 8 wV6) where
  keySize := by decide
  upcBound := by decide
  kiBound := by decide
  errcodeRange := by decide
  infoZero := fun _ _ => rfl
  infoKey := fun _ => by decide
  infoBlock := fun _ => by decide
  keyTail := fun i _ => byteAt_zeros 32 i
  blockTail := fun i _ => byteAt_zeros 16 i
  outCleared := fun _ => rfl
  stateCleared := fun _ => rfl
  expanding := fun _ => ⟨rfl, fun ks h => by cases h; exact ⟨by decide, by decide, fun i h₁ h₂ => by
    have h₁ : 8 ≤ i := h₁
    have h₂ : i < 8 := h₂
    omega⟩⟩
  ciphering := fun h => by cases h <;> contradiction
  scheduleReady := fun h => by cases h

/-- An encryption at its last micro-op, under the schedule of V1's key and with the schedule's turns to come. -/
def lastStep (ts : List Turn) : State :=
  { running 39 (hexMat 0xe9317db5cb322c723d2e895faf090794) with W := storeOf .k128 keyV1, sched := ts }

theorem schedule_storeOf : ScheduleUpTo .k128 (storeOf .k128 keyV1) 44 := by
  have key : ∀ i, i < 44 → 4 ≤ i → wordAt (storeOf .k128 keyV1) i =
      scheduleWord 4 i (wordAt (storeOf .k128 keyV1) (i - 1)) (wordAt (storeOf .k128 keyV1) (i - 4)) := by
    decide +kernel
  exact fun i h₁ h₂ => key i h₂ h₁

theorem inv_lastStep (ts : List Turn) : Inv (lastStep ts) where
  keySize := show (0b00 : BitVec 2) ≠ 0b11 by decide
  upcBound := show (39 : BitVec 6).toNat ≤ 56 by decide
  kiBound := show (44 : BitVec 6).toNat ≤ 60 by decide
  errcodeRange := show (0x00 : Byte).toNat ≤ 6 by decide
  infoZero := fun _ _ => rfl
  infoKey := fun _ => show (0x00 : Byte).toNat ≤ 63 by decide
  infoBlock := fun _ => show (0x00 : Byte).toNat ≤ 31 by decide
  keyTail := fun i _ => byteAt_zeros 32 i
  blockTail := fun i _ => byteAt_zeros 16 i
  outCleared := fun _ => rfl
  stateCleared := fun h => by cases h <;> contradiction
  expanding := fun h => by cases h
  ciphering := fun _ => ⟨rfl, rfl, fun ks h => by cases h; show (39 : BitVec 6).toNat < 40; decide⟩
  scheduleReady := fun _ ks h => by cases h; exact schedule_storeOf

theorem witness_EveryStepKeepsTheInvariant :
    (∃ s t, Inv s ∧ step s = .next t ∧ s.phase = .keyexp) ∧ (∃ s t, Inv s ∧ step s = .next t ∧ s.phase = .enc) :=
  ⟨⟨_, _, inv_expanding, nextOf_eq State.reset (by decide +kernel), rfl⟩,
    ⟨_, _, inv_lastStep [], nextOf_eq State.reset (by decide +kernel), rfl⟩⟩

theorem witness_NoStepFaultsOrRefuses : ∃ s, Inv s ∧ s.phase = .enc := ⟨_, inv_lastStep [], rfl⟩

theorem witness_EachEngineStepBringsCompletionOneNearer :
    (∃ s t, Inv s ∧ s.phase ≠ .idle ∧ step s = .next t ∧ (s.sched = [] ∨ ∃ rest, s.sched = .engine :: rest)) ∧
    (∃ s t p rest, Inv s ∧ s.phase ≠ .idle ∧ step s = .next t ∧ s.sched = .edge p :: rest ∧ p.rst = false) :=
  ⟨⟨_, _, inv_lastStep [.engine], by decide, nextOf_eq State.reset (by decide +kernel), .inr ⟨[], rfl⟩⟩,
    ⟨_, _, Pins.ofWord 0x0100, [], inv_lastStep [edgeOf 0x0100], by decide,
      nextOf_eq State.reset (by decide +kernel), rfl, rfl⟩⟩

theorem noReset_of_all {ts : List Turn}
    (h : (ts.all fun | .edge p => !p.rst | .engine => true) = true) : NoReset ts := fun p hp => by
  simpa using List.all_eq_true.mp h _ hp

theorem witness_EveryRunningCommandCompletes :
    ∃ s, Inv s ∧ s.phase ≠ .idle ∧ NoReset s.sched ∧ s.sched ≠ [] :=
  ⟨_, inv_lastStep [edgeOf 0x2002, .engine], by decide, noReset_of_all (by decide), by decide⟩

/-- An infinite execution whose host never stops: STATUS reads, a refused DECRYPT between them, with one engine turn. -/
def polling : Nat → Turn
  | 1 => edgeOf 0x2003
  | 2 => .engine
  | _ => edgeOf 0x0100

/-- Its states, from the last step of an encryption on. -/
def polled : Nat → State
  | 0 => lastStep []
  | n + 1 => nextOf (takeTurn (polling n) (polled n)) (polled n)

theorem polled_idle (n : Nat) : (polled (n + 3)).phase = .idle := by
  induction n with
  | zero => decide +kernel
  | succ n ih => exact ih

theorem witness_EveryRunningCommandCompletes_fair :
    ∃ e : Execution, e.Admitted ∧ e.Fair ∧ e.NoReset ∧ Inv (e.state 0) ∧ (e.state 0).phase ≠ .idle := by
  refine ⟨⟨polled, polling⟩, fun n => ?_, fun n h => ?_, fun n p h => ?_, inv_lastStep [], by decide⟩
  · match n with
    | 0 => exact ⟨rfl, nextOf_eq (polled 0) (by decide +kernel)⟩
    | 1 => exact ⟨rfl, nextOf_eq (polled 1) (by decide +kernel)⟩
    | 2 => exact ⟨by decide +kernel, nextOf_eq (polled 2) (by decide +kernel)⟩
    | _ + 3 => exact ⟨rfl, rfl⟩
  · exact absurd (polled_idle n) (turnEnabled_engine.mp (h (n + 3) (by omega)))
  · match n with
    | 0 => cases h; rfl
    | 1 => cases h; rfl
    | 2 => cases h
    | _ + 3 => cases h; rfl

/-- The phase after `n` steps. -/
def phaseAfter (n : Nat) (s : State) : Option Phase := after (Host.Core.run Sys2Proof.core n s) (·.phase)

theorem firstIdle_of_phases {n : Nat} {s : State} (h₁ : phaseAfter n s = some .idle)
    (h₂ : ∀ m, m < n → phaseAfter m s ≠ some .idle) : ∃ t, FirstIdle n s t := by
  unfold phaseAfter at h₁
  cases h : Host.Core.run Sys2Proof.core n s with
  | next t =>
    rw [h] at h₁
    refine ⟨t, h, Option.some.inj h₁, fun m u hm hu hi => h₂ m hm ?_⟩
    have hu : Host.Core.run Sys2Proof.core m s = .next u := hu
    rw [phaseAfter, hu]
    exact congrArg some hi
  | fault f => rw [h] at h₁; cases h₁
  | refused r => rw [h] at h₁; cases h₁

theorem witness_CommandsTakeTheirStepCounts :
    (∃ t, (keyed 16 keyV1).sched = [] ∧ (keyed 16 keyV1).phase = .idle ∧ (keyed 16 keyV1).kcnt = 16 ∧
      exec (.keyexp 0b00) (keyed 16 keyV1) = .next t) ∧
    (∃ t, (keyed 24 keyCount).kcnt = 24 ∧ exec (.keyexp 0b01) (keyed 24 keyCount) = .next t) ∧
    (∃ t, (keyed 32 keyCount).kcnt = 32 ∧ exec (.keyexp 0b10) (keyed 32 keyCount) = .next t) ∧
    (∃ t, (ready 16 (hexBlock 0)).sched = [] ∧ (ready 16 (hexBlock 0)).phase = .idle ∧
      (ready 16 (hexBlock 0)).keyReady = true ∧ (ready 16 (hexBlock 0)).dcnt = 16 ∧
      (ready 16 (hexBlock 0)).ksz = 0b00 ∧ exec .decrypt (ready 16 (hexBlock 0)) = .next t) :=
  ⟨⟨_, rfl, rfl, rfl, rfl⟩, ⟨_, rfl, rfl⟩, ⟨_, rfl, rfl⟩, ⟨_, rfl, rfl, rfl, rfl, rfl, rfl⟩⟩

/-- A KEYEXP with a push and a refused command between its engine steps. -/
theorem witness_ACompletedKeyexpHoldsTheExpansionOfItsKey :
    ∃ (s t u : State) (n : Nat), s.phase = .idle ∧ KeySize.ofCode 0b00 = some .k128 ∧
      s.kcnt.toNat = 4 * KeySize.k128.nk ∧ NoReset s.sched ∧ exec (.keyexp 0b00) s = .next t ∧ FirstIdle n t u := by
  let s : State := { keyed 16 keyV1 with sched := [edgeOf 0x24aa, .engine, edgeOf 0x2001] }
  obtain ⟨u, hu⟩ := firstIdle_of_phases (n := 42) (s := nextOf (exec (.keyexp 0b00) s) s) (by decide +kernel)
    (by decide +kernel)
  exact ⟨s, _, u, 42, rfl, rfl, by decide, noReset_of_all (by decide), rfl, hu⟩

/-- An ENCRYPT with a read of DOUT, a push and a refused command between its engine steps. -/
theorem witness_ACompletedEncryptionLeavesTheCipherOfItsBlock :
    ∃ (s t u : State) (n : Nat), s.phase = .idle ∧ s.keyReady = true ∧ s.dcnt.toNat = 16 ∧
      KeySize.ofCode s.ksz = some .k128 ∧ NoReset s.sched ∧ exec .encrypt s = .next t ∧ FirstIdle n t u := by
  let s : State := { ready 16 (hexBlock 0x3243f6a8885a308d313198a2e0370734) with
    sched := [.engine, edgeOf 0x1000, edgeOf 0x2655, .engine, edgeOf 0x2002] }
  obtain ⟨u, hu⟩ := firstIdle_of_phases (n := 43) (s := nextOf (exec .encrypt s) s) (by decide +kernel) (by decide +kernel)
  exact ⟨s, _, u, 43, rfl, rfl, by decide +kernel, rfl, noReset_of_all (by decide), rfl, hu⟩

/-- A DECRYPT with a read of DOUT, a push and a refused command between its engine steps. -/
theorem witness_ACompletedDecryptionLeavesTheInverseCipherOfItsBlock :
    ∃ (s t u : State) (n : Nat), s.phase = .idle ∧ s.keyReady = true ∧ s.dcnt.toNat = 16 ∧
      KeySize.ofCode s.ksz = some .k128 ∧ NoReset s.sched ∧ exec .decrypt s = .next t ∧ FirstIdle n t u := by
  let s : State := { ready 16 (hexBlock 0x3925841d02dc09fbdc118597196a0b32) with
    sched := [.engine, edgeOf 0x1000, edgeOf 0x2655, .engine, edgeOf 0x2002] }
  obtain ⟨u, hu⟩ := firstIdle_of_phases (n := 43) (s := nextOf (exec .decrypt s) s) (by decide +kernel) (by decide +kernel)
  exact ⟨s, _, u, 43, rfl, rfl, by decide +kernel, rfl, noReset_of_all (by decide), rfl, hu⟩

end Sys2Proof.Tests
end

section
/-! What one instruction can do, said once: `exec_next` sorts an instruction that answers a next state by the shared
operation it performed; and the facts about instructions as terms that tell the cases apart. -/

namespace Sys2Proof.Machine

/-- An instruction from one state to another, by the shared operation that takes it there. -/
inductive Performed (s : State) : Instr → State → Prop where
  | keyexp (c : BitVec 2) : Performed s (.keyexp c) (commandKeyexp c s)
  | encrypt : Performed s .encrypt (commandCipher .enc s)
  | decrypt : Performed s .decrypt (commandCipher .dec s)
  | cmdIllegal (d : Byte) : Performed s (.cmdIllegal d) (commandIllegal s)
  | wrKeyin (d : Byte) : Performed s (.wrKeyin d) (pushKey d s)
  | wrDin (d : Byte) : Performed s (.wrDin d) (pushBlock d s)
  | ignoredWrite (a : BitVec 5) (d : Byte) : Performed s (.accessIgnored true a d) s
  | read {i : Instr} (d : Byte) : isRead i = true → Performed s i (respond d s)
  | kxw {t : State} : execKxw s = .next t → Performed s .kxw t
  | roundOp {i : Instr} {t : State} : isRoundOp i = true → engineStep (applyMicroOp s.W s.S i) s = .next t →
      Performed s i t

/-- Everything an instruction that answers a next state has done. -/
theorem exec_next {i : Instr} {s t : State} (h : exec i s = .next t) : Performed s i t := by
  cases i with
  | keyexp c => cases h; exact .keyexp c
  | encrypt => cases h; exact .encrypt
  | decrypt => cases h; exact .decrypt
  | cmdIllegal d => cases h; exact .cmdIllegal d
  | wrKeyin d => cases h; exact .wrKeyin d
  | wrDin d => cases h; exact .wrDin d
  | rdStatus => cases h; exact .read _ rfl
  | rdErrcode => cases h; exact .read _ rfl
  | rdErrinfo => cases h; exact .read _ rfl
  | rdKcnt => cases h; exact .read _ rfl
  | rdDcnt => cases h; exact .read _ rfl
  | rdDout j => cases h; exact .read _ rfl
  | accessIgnored w a d =>
    cases w with
    | true => cases h; exact .ignoredWrite a d
    | false => cases h; exact .read _ rfl
  | kxw => exact .kxw h
  | ark rnd => exact .roundOp rfl h
  | sb => exact .roundOp rfl h
  | isb => exact .roundOp rfl h
  | sr => exact .roundOp rfl h
  | isr => exact .roundOp rfl h
  | mc => exact .roundOp rfl h
  | imc => exact .roundOp rfl h

/-- R61: the micro-operations are KXW and the round micro-operations. -/
theorem format_eq_uop {i : Instr} : i.format = .uop ↔ i = .kxw ∨ isRoundOp i = true := by
  cases i <;> simp [Instr.format, isRoundOp]

/-- R63: a bus transaction word decodes to no micro-operation. -/
theorem decodeBus_format (w : BitVec 14) : (decodeBus w).format = .bus := by
  unfold decodeBus decodeWrite decodeRead decodeCmd
  split_ifs <;> rfl

/-- R63: the commands are the writes to CTRL. -/
theorem write_ctrl_of_isCommand {w : BitVec 14} (h : isCommand (decodeBus w) = true) :
    busW w = true ∧ busA w = 0x00 := by
  unfold decodeBus at h
  split at h
  · next hw =>
    refine ⟨hw, ?_⟩
    by_contra ha
    rw [decodeWrite, if_neg ha] at h
    split_ifs at h <;> cases h
  · rw [decodeRead] at h
    split_ifs at h <;> cases h

/-- R59: the fields of a transaction word that was put together from them. -/
theorem busW_busWord (w : Bool) (a : BitVec 5) (d : Byte) : busW (busWord w a d) = w := by
  show (BitVec.ofBool w ++ a ++ d).getLsbD 13 = w
  rw [BitVec.getLsbD_append, BitVec.getLsbD_append]
  simp

theorem busA_busWord (w : Bool) (a : BitVec 5) (d : Byte) : busA (busWord w a d) = a := by
  show (BitVec.ofBool w ++ a ++ d).extractLsb' 8 5 = a
  rw [BitVec.extractLsb'_append_eq_of_le (by omega), BitVec.extractLsb'_append_eq_right]

/-- R102: a write on the ports has wr_en high, and its address is addr. -/
theorem Pins.transaction_fields {p : Pins} {w : BitVec 14} (h : p.transaction = some w) :
    busW w = p.wrEn ∧ busA w = p.addr := by
  unfold Pins.transaction at h
  split_ifs at h with hw hr
  · cases h; exact ⟨by rw [busW_busWord, hw], busA_busWord _ _ _⟩
  · cases h; exact ⟨by simpa [busW_busWord] using hw, busA_busWord _ _ _⟩

end Sys2Proof.Machine
end

section
/-! The invariant holds at reset, and each operation of the model keeps it: one lemma for each named update (the
hypotheses say when the model performs it), then the instructions and the turns put together from them. -/

namespace Sys2Proof.Machine

theorem inv_reset : Inv State.reset where
  keySize := by decide
  upcBound := by decide
  kiBound := by decide
  errcodeRange := by decide
  infoZero := fun _ _ => rfl
  infoKey := fun _ => by decide
  infoBlock := fun _ => by decide
  keyTail := fun i _ => byteAt_zeros 32 i
  blockTail := fun i _ => byteAt_zeros 16 i
  outCleared := fun _ => rfl
  stateCleared := fun _ => rfl
  expanding := fun h => by cases h
  ciphering := fun h => by cases h <;> contradiction
  scheduleReady := fun h => by cases h

/-- A reset edge restores the invariant from any state. -/
theorem inv_resetStep (s : State) : Inv (resetStep s) := { inv_reset with }

/-- Settles O52: every range, buffer and schedule clause holds of the reset values. -/
theorem theInvariantHoldsAtReset : Obligations.TheInvariantHoldsAtReset := inv_reset

/-! The schedule store. -/

/-- Before the first computed word there is nothing to compute. -/
theorem scheduleUpTo_nk (ks : KeySize) (w : Vector Word 60) : ScheduleUpTo ks w ks.nk := fun i h₁ h₂ => by omega

/-- R83: computing word `n` from the two words it depends on extends the schedule by one word. -/
theorem ScheduleUpTo.extend {ks : KeySize} {w : Vector Word 60} {n : Nat} (h : ScheduleUpTo ks w n)
    (hn : ks.nk ≤ n) (hn' : n < 60) :
    ScheduleUpTo ks (setWordAt w n (scheduleWord ks.nk n (wordAt w (n - 1)) (wordAt w (n - ks.nk)))) (n + 1) := by
  intro i h₁ h₂
  have hnk := ks.bounds.1
  rw [wordAt_setWordAt w n (i - 1) _ hn', if_neg (by omega), wordAt_setWordAt w n (i - ks.nk) _ hn',
    if_neg (by omega), wordAt_setWordAt w n i _ hn']
  split
  · next hi => rw [hi]
  · exact h i h₁ (by omega)

/-! Reporting, reading and pushing. -/

/-- R30, R124: what ERRINFO may hold beside a code: a count for the two length errors, else 0x00. -/
def ErrCode.AdmitsInfo (info : Byte) : ErrCode → Prop
  | .keyLen => info.toNat ≤ 63
  | .blockLen => info.toNat ≤ 31
  | .ok => info = 0x00
  | .busy => info = 0x00
  | .illegalCmd => info = 0x00
  | .badKeysize => info = 0x00
  | .noKey => info = 0x00

theorem ErrCode.byte_toNat_le (code : ErrCode) : code.byte.toNat ≤ 6 := by
  cases code <;> decide

theorem ErrCode.byte_eq_keyLen {code : ErrCode} (h : code.byte = 0x04) : code = .keyLen := by
  revert h; cases code <;> decide

theorem ErrCode.byte_eq_blockLen {code : ErrCode} (h : code.byte = 0x05) : code = .blockLen := by
  revert h; cases code <;> decide

theorem keyLen_admits_kcntByte (s : State) : ErrCode.keyLen.AdmitsInfo (kcntByte s) := by
  have := s.kcnt.isLt
  simp only [ErrCode.AdmitsInfo, kcntByte, BitVec.toNat_setWidth]
  omega

theorem blockLen_admits_dcntByte (s : State) : ErrCode.blockLen.AdmitsInfo (dcntByte s) := by
  have := s.dcnt.isLt
  simp only [ErrCode.AdmitsInfo, dcntByte, BitVec.toNat_setWidth]
  omega

namespace Inv

variable {s t : State}

theorem report (h : Inv s) {code : ErrCode} {info : Byte} (ha : code.AdmitsInfo info) :
    Inv (report code info s) :=
  { h with
    errcodeRange := code.byte_toNat_le
    infoZero := fun h₄ h₅ => by
      cases code with
      | keyLen => exact absurd rfl h₄
      | blockLen => exact absurd rfl h₅
      | _ => exact ha
    infoKey := fun h₄ => by
      cases ErrCode.byte_eq_keyLen h₄
      exact ha
    infoBlock := fun h₅ => by
      cases ErrCode.byte_eq_blockLen h₅
      exact ha }

theorem respond (h : Inv s) (d : Byte) : Inv (respond d s) := { h with }

theorem latchPort (h : Inv s) (p : Pins) : Inv (latchPort p s) := { h with }

theorem withRest (h : Inv s) (rest : List Turn) : Inv { s with sched := rest } := { h with }

theorem pushKey (h : Inv s) (d : Byte) : Inv (pushKey d s) :=
  { h with
    keyTail := fun i hi => by
      rw [pushKey_kcnt_toNat] at hi
      have := s.kcnt.isLt
      rw [byteAt_pushKey, if_neg (by omega)]
      exact h.keyTail i (by omega) }

theorem pushBlock (h : Inv s) (d : Byte) : Inv (pushBlock d s) :=
  { h with
    blockTail := fun i hi => by
      rw [pushBlock_dcnt_toNat] at hi
      have := s.dcnt.isLt
      rw [byteAt_pushBlock, if_neg (by omega)]
      exact h.blockTail i (by omega) }

/-! Commands. -/

/-- R122: KEY_READY may be cleared while no block is being transformed. -/
theorem consumeKey (h : Inv s) (hp : s.phase = .idle) : Inv (consumeKey s) :=
  { h with
    keyTail := fun i _ => byteAt_zeros 32 i
    expanding := fun hk => by cases hp.symm.trans hk
    ciphering := fun hc => by cases hc <;> next hc => cases hp.symm.trans hc
    scheduleReady := fun hr => by cases hr }

theorem consumeBlock (h : Inv s) : Inv (consumeBlock s) :=
  { h with
    blockTail := fun i _ => byteAt_zeros 16 i
    outCleared := fun _ => rfl
    ciphering := fun hc =>
      have ⟨hk, _, hu⟩ := h.ciphering hc
      ⟨hk, rfl, hu⟩ }

/-- R104: an accepted KEYEXP starts with the key columns loaded, no key ready and KI at the first word to compute. -/
theorem acceptKeyexp (h : Inv s) (hp : s.phase = .idle) {c : BitVec 2} {ks : KeySize}
    (hc : KeySize.ofCode c = some ks) : Inv (Machine.consumeKey (startExpansion c ks.nk s)) :=
  have hki := toNat_ofNat_nk ks
  have hb := ks.bounds
  { h with
    keySize := fun he => by cases hc.symm.trans (KeySize.ofCode_eq_none.mpr he)
    kiBound := by show (BitVec.ofNat 6 ks.nk).toNat ≤ 60; omega
    keyTail := fun i _ => byteAt_zeros 32 i
    stateCleared := fun _ => h.stateCleared (.inl hp)
    expanding := fun _ => ⟨rfl, fun ks' hc' => by
      cases hc.symm.trans hc'
      show ks.nk ≤ (BitVec.ofNat 6 ks.nk).toNat ∧ (BitVec.ofNat 6 ks.nk).toNat < ks.scheduleLen ∧
        ScheduleUpTo ks (loadKeyWords ks.nk s.kbuf s.W) (BitVec.ofNat 6 ks.nk).toNat
      rw [hki]
      exact ⟨le_refl _, by omega, scheduleUpTo_nk ks _⟩⟩
    ciphering := fun hph => by cases hph <;> contradiction
    scheduleReady := fun hr => by cases hr }

/-- R105, R106: an accepted ENCRYPT or DECRYPT starts at its first micro-op, with the key ready and OUT cleared. -/
theorem acceptCipher (h : Inv s) (hk : s.keyReady = true) {ph : Phase} (hph : ph = .enc ∨ ph = .dec) :
    Inv (Machine.consumeBlock (startCipher ph s)) :=
  { h with
    upcBound := show (0 : BitVec 6).toNat ≤ 56 by decide
    blockTail := fun i _ => byteAt_zeros 16 i
    outCleared := fun _ => rfl
    stateCleared := fun hc => by rcases hph with rfl | rfl <;> cases hc <;> contradiction
    expanding := fun hc => by rcases hph with rfl | rfl <;> cases hc
    ciphering := fun _ => ⟨hk, rfl, fun ks _ => have hb := ks.bounds; by
      show (0 : BitVec 6).toNat < ks.programLen
      simp; omega⟩ }

theorem commandKeyexp (h : Inv s) (c : BitVec 2) : Inv (commandKeyexp c s) := by
  rcases commandKeyexp_cases c s with ⟨-, e⟩ | ⟨hp, -, e⟩ | ⟨ks, hp, -, -, e⟩ | ⟨ks, hp, hc, -, e⟩
  · rw [e]; exact h.report rfl
  · rw [e]; exact (h.consumeKey hp).report rfl
  · rw [e]; exact (h.consumeKey hp).report (keyLen_admits_kcntByte s)
  · rw [e]; exact (h.acceptKeyexp hp hc).report rfl

theorem commandCipher (h : Inv s) {ph : Phase} (hph : ph = .enc ∨ ph = .dec) : Inv (commandCipher ph s) := by
  rcases commandCipher_cases ph s with ⟨-, e⟩ | ⟨-, -, e⟩ | ⟨-, -, -, e⟩ | ⟨-, hk, -, e⟩
  · rw [e]; exact h.report rfl
  · rw [e]; exact h.consumeBlock.report rfl
  · rw [e]; exact h.consumeBlock.report (blockLen_admits_dcntByte s)
  · rw [e]; exact (h.acceptCipher hk hph).report rfl

theorem commandIllegal (h : Inv s) : Inv (commandIllegal s) := by
  rcases commandIllegal_cases s with ⟨-, e⟩ | ⟨-, e⟩
  · rw [e]; exact h.report rfl
  · rw [e]; exact h.report rfl

/-! Engine steps. -/

/-- R83, R84: a KXW of a running expansion extends the schedule by a word; the last word makes the key ready. -/
theorem execKxw (h : Inv s) (hp : s.phase = .keyexp) (he : execKxw s = .next t) : Inv t := by
  obtain ⟨ks, hks, hlo, hhi, hcase⟩ := execKxw_next he
  obtain ⟨hkr, hsched⟩ := h.expanding hp
  have hb := ks.bounds
  have hki : (s.ki + 1).toNat = s.ki.toNat + 1 := toNat_add_one_of_lt (by omega)
  have hext := (hsched ks hks).2.2.extend hlo (by omega)
  rcases hcase with ⟨hlast, rfl⟩ | ⟨hmore, rfl⟩
  · exact
      { h with
        kiBound := by show (s.ki + 1).toNat ≤ 60; omega
        stateCleared := fun _ => h.stateCleared (.inr hp)
        expanding := fun hc => by cases hc
        ciphering := fun hc => by cases hc <;> contradiction
        scheduleReady := fun _ ks' hks' => by
          cases hks.symm.trans hks'
          rw [← hlast]
          exact hext }
  · exact
      { h with
        kiBound := by show (s.ki + 1).toNat ≤ 60; omega
        expanding := fun _ => ⟨hkr, fun ks' hks' => by
          cases hks.symm.trans hks'
          show ks.nk ≤ (s.ki + 1).toNat ∧ (s.ki + 1).toNat < ks.scheduleLen ∧
            ScheduleUpTo ks (setWordAt s.W s.ki.toNat (kxwWord ks s)) (s.ki + 1).toNat
          rw [hki]
          exact ⟨by omega, by omega, hext⟩⟩
        scheduleReady := fun hr => by cases hkr.symm.trans hr }

/-- R96, R97: a round micro-operation of a running cipher advances UPC in the program; the last one stores a result. -/
theorem engineStep (h : Inv s) (hp : s.phase = .enc ∨ s.phase = .dec) {m : Mat} (he : engineStep m s = .next t) :
    Inv t := by
  obtain ⟨ks, hks, hcase⟩ := engineStep_next he
  obtain ⟨hkr, hov, hupc⟩ := h.ciphering hp
  have hlt := hupc ks hks
  have hb := ks.bounds
  have hup : (s.upc + 1).toNat = s.upc.toNat + 1 := toNat_add_one_of_lt (by omega)
  rcases hcase with ⟨-, rfl⟩ | ⟨hmore, rfl⟩
  · exact
      { h with
        upcBound := by show (s.upc + 1).toNat ≤ 56; omega
        outCleared := fun hc => by cases hc
        stateCleared := fun _ => rfl
        expanding := fun hc => by cases hc
        ciphering := fun hc => by cases hc <;> contradiction }
  · exact
      { h with
        upcBound := by show (s.upc + 1).toNat ≤ 56; omega
        stateCleared := fun hc => by rcases hp with hp | hp <;> rcases hc with hc | hc <;> cases hp.symm.trans hc
        ciphering := fun _ => ⟨hkr, hov, fun ks' hks' => by
          cases hks.symm.trans hks'
          show (s.upc + 1).toNat < ks.programLen
          omega⟩ }

/-! Instructions and turns. -/

/-- No transaction breaks the invariant. -/
theorem exec_bus (h : Inv s) {i : Instr} (hi : i.format = .bus) (he : exec i s = .next t) : Inv t := by
  cases exec_next he with
  | keyexp c => exact h.commandKeyexp c
  | encrypt => exact h.commandCipher (.inl rfl)
  | decrypt => exact h.commandCipher (.inr rfl)
  | cmdIllegal d => exact h.commandIllegal
  | wrKeyin d => exact h.pushKey d
  | wrDin d => exact h.pushBlock d
  | ignoredWrite a d => exact h
  | read d hr => exact h.respond d
  | kxw hk => cases hi
  | roundOp hr hs => cases hi.symm.trans (format_eq_uop.mpr (.inr hr))

theorem engineTurn (h : Inv s) (he : engineTurn s = .next t) : Inv t := by
  rcases engineTurn_next he with ⟨-, rfl⟩ | ⟨hp, hk⟩ | ⟨i, hp, -, hs⟩
  · exact h
  · exact h.execKxw hp hk
  · exact h.engineStep hp hs

theorem edgeTurn (h : Inv s) {p : Pins} (he : edgeTurn p s = .next t) : Inv t := by
  rcases edgeTurn_next he with ⟨-, rfl⟩ | ⟨-, -, rfl⟩ | ⟨w, -, -, hx⟩
  · exact inv_resetStep _
  · exact h.latchPort p
  · exact (h.latchPort p).exec_bus (decodeBus_format w) hx

theorem step (h : Inv s) (he : step s = .next t) : Inv t := by
  rcases step_next he with ⟨-, ht⟩ | ⟨rest, -, ht⟩ | ⟨p, rest, -, ht⟩
  · exact h.engineTurn ht
  · exact (h.withRest rest).engineTurn ht
  · exact (h.withRest rest).edgeTurn ht

end Inv

/-- Settles O53: the turn of the step is the engine's or a clock edge, and neither breaks the invariant. -/
theorem everyStepKeepsTheInvariant : Obligations.EveryStepKeepsTheInvariant :=
  fun _ _ h he => h.step he

end Sys2Proof.Machine
end

section
/-! Which registers each instruction may write (10_state R18 to R40), and what the transactions do to PHASE. -/

namespace Sys2Proof.Machine

/-- R104: what a KEYEXP leaves unchanged. -/
theorem commandKeyexp_frame (c : BitVec 2) (s : State) :
    commandKeyexp c s = { commandKeyexp c s with
      upc := s.upc, outValid := s.outValid, dbuf := s.dbuf, dcnt := s.dcnt, S := s.S, out := s.out,
      rdata := s.rdata, reads := s.reads, sched := s.sched } := by
  rcases commandKeyexp_cases c s with ⟨-, e⟩ | ⟨-, -, e⟩ | ⟨ks, -, -, -, e⟩ | ⟨ks, -, -, -, e⟩ <;> rw [e] <;> rfl

/-- R105, R106: what an ENCRYPT or DECRYPT leaves unchanged. -/
theorem commandCipher_frame (ph : Phase) (s : State) :
    commandCipher ph s = { commandCipher ph s with
      ki := s.ki, ksz := s.ksz, keyReady := s.keyReady, kbuf := s.kbuf, kcnt := s.kcnt, W := s.W,
      rdata := s.rdata, reads := s.reads, sched := s.sched } := by
  rcases commandCipher_cases ph s with ⟨-, e⟩ | ⟨-, -, e⟩ | ⟨-, -, -, e⟩ | ⟨-, -, -, e⟩ <;> rw [e] <;> rfl

/-- R107: an illegal command writes ERRCODE and ERRINFO only. -/
theorem commandIllegal_frame (s : State) :
    commandIllegal s = { s with errcode := (commandIllegal s).errcode, errinfo := (commandIllegal s).errinfo } := by
  rcases commandIllegal_cases s with ⟨-, e⟩ | ⟨-, e⟩ <;> rw [e] <;> rfl

/-- R83, R84: KXW writes W, KI, PHASE and KEY_READY only. -/
theorem execKxw_frame {s t : State} (h : execKxw s = .next t) :
    t = { s with W := t.W, ki := t.ki, phase := t.phase, keyReady := t.keyReady } := by
  obtain ⟨ks, -, -, -, ⟨-, rfl⟩ | ⟨-, rfl⟩⟩ := execKxw_next h <;> rfl

/-- R96, R97: a round micro-operation writes S, UPC, PHASE, OUT and OUT_VALID only. -/
theorem engineStep_frame {m : Mat} {s t : State} (h : engineStep m s = .next t) :
    t = { s with S := t.S, upc := t.upc, phase := t.phase, out := t.out, outValid := t.outValid } := by
  obtain ⟨ks, -, ⟨-, rfl⟩ | ⟨-, rfl⟩⟩ := engineStep_next h <;> rfl

/-- Settles O47: the frame of the operation each instruction performs. -/
theorem eachRegisterIsWrittenOnlyByItsRules : Obligations.EachRegisterIsWrittenOnlyByItsRules := by
  intro i s t h
  cases exec_next h with
  | keyexp c => rw [commandKeyexp_frame]; simp [isCommand]
  | encrypt => rw [commandCipher_frame]; simp [isCommand]
  | decrypt => rw [commandCipher_frame]; simp [isCommand]
  | cmdIllegal d => rw [commandIllegal_frame]; simp [isCommand]
  | wrKeyin d => simp
  | wrDin d => simp
  | ignoredWrite a d => simp
  | read d hr => simp [hr]
  | kxw hk => rw [execKxw_frame hk]; simp [Instr.format]
  | roundOp hr hs =>
    have hf := format_eq_uop.mpr (.inr hr)
    rw [engineStep_frame hs]
    simp [hr, hf]

/-- R104, R123: a KEYEXP that changes PHASE was accepted, and reports OK. -/
theorem commandKeyexp_accepted_of_phase_change {c : BitVec 2} {s : State} (h : (commandKeyexp c s).phase ≠ s.phase) :
    s.phase = .idle ∧ (commandKeyexp c s).errcode = 0x00 ∧ (commandKeyexp c s).errinfo = 0x00 := by
  rcases commandKeyexp_cases c s with ⟨-, e⟩ | ⟨-, -, e⟩ | ⟨ks, -, -, -, e⟩ | ⟨ks, hp, -, -, e⟩
  · rw [e] at h; exact absurd rfl h
  · rw [e] at h; exact absurd rfl h
  · rw [e] at h; exact absurd rfl h
  · rw [e]; exact ⟨hp, rfl, rfl⟩

/-- R105, R106, R123: an ENCRYPT or DECRYPT that changes PHASE was accepted, and reports OK. -/
theorem commandCipher_accepted_of_phase_change {ph : Phase} {s : State} (h : (commandCipher ph s).phase ≠ s.phase) :
    s.phase = .idle ∧ (commandCipher ph s).errcode = 0x00 ∧ (commandCipher ph s).errinfo = 0x00 := by
  rcases commandCipher_cases ph s with ⟨-, e⟩ | ⟨-, -, e⟩ | ⟨-, -, -, e⟩ | ⟨hp, -, -, e⟩
  · rw [e] at h; exact absurd rfl h
  · rw [e] at h; exact absurd rfl h
  · rw [e] at h; exact absurd rfl h
  · rw [e]; exact ⟨hp, rfl, rfl⟩

/-- R18, R123: a transaction that changes PHASE is a command accepted while idle. -/
theorem exec_accepted_of_phase_change {i : Instr} {s t : State} (hi : i.format = .bus) (h : exec i s = .next t)
    (hne : t.phase ≠ s.phase) :
    isCommand i = true ∧ s.phase = .idle ∧ t.errcode = 0x00 ∧ t.errinfo = 0x00 := by
  cases exec_next h with
  | keyexp c => exact ⟨rfl, commandKeyexp_accepted_of_phase_change hne⟩
  | encrypt => exact ⟨rfl, commandCipher_accepted_of_phase_change hne⟩
  | decrypt => exact ⟨rfl, commandCipher_accepted_of_phase_change hne⟩
  | cmdIllegal d => rw [commandIllegal_frame] at hne; exact absurd rfl hne
  | wrKeyin d => exact absurd rfl hne
  | wrDin d => exact absurd rfl hne
  | ignoredWrite a d => exact absurd rfl hne
  | read d hr => exact absurd rfl hne
  | kxw hk => cases hi
  | roundOp hr hs => cases hi.symm.trans (format_eq_uop.mpr (.inr hr))

/-- R84, R97: an engine turn that changes PHASE completes the running command. -/
theorem engineTurn_completed_of_phase_change {s t : State} (h : engineTurn s = .next t) (hne : t.phase ≠ s.phase) :
    s.phase ≠ .idle ∧ t.phase = .idle ∧
      ((s.phase = .keyexp ∧ t.keyReady = true) ∨ (s.phase ≠ .keyexp ∧ t.outValid = true)) := by
  rcases engineTurn_next h with ⟨-, rfl⟩ | ⟨hp, hk⟩ | ⟨i, hp, -, hs⟩
  · exact absurd rfl hne
  · obtain ⟨ks, -, -, -, ⟨-, rfl⟩ | ⟨-, rfl⟩⟩ := execKxw_next hk
    · exact ⟨by simp [hp], rfl, .inl ⟨hp, rfl⟩⟩
    · exact absurd rfl hne
  · obtain ⟨ks, -, ⟨-, rfl⟩ | ⟨-, rfl⟩⟩ := engineStep_next hs
    · exact ⟨by rcases hp with hp | hp <;> simp [hp], rfl, .inr ⟨by rcases hp with hp | hp <;> simp [hp], rfl⟩⟩
    · exact absurd rfl hne

/-- R18, R143: a clock edge that changes PHASE is a reset of a busy engine or an accepted write to CTRL. -/
theorem edgeTurn_phase_change {p : Pins} {s t : State} (h : edgeTurn p s = .next t) (hne : t.phase ≠ s.phase) :
    (p.rst = true ∧ s.phase ≠ .idle ∧ t.phase = .idle) ∨
    (p.rst = false ∧ s.phase = .idle ∧ p.wrEn = true ∧ p.addr = 0x00 ∧ t.errcode = 0x00 ∧ t.errinfo = 0x00) := by
  rcases edgeTurn_next h with ⟨hr, rfl⟩ | ⟨-, -, rfl⟩ | ⟨w, hr, hw, hx⟩
  · exact .inl ⟨hr, hne.symm, rfl⟩
  · exact absurd rfl hne
  · obtain ⟨hc, hp, hcode, hinfo⟩ := exec_accepted_of_phase_change (decodeBus_format w) hx hne
    obtain ⟨hbw, hba⟩ := write_ctrl_of_isCommand hc
    obtain ⟨hwr, haddr⟩ := Pins.transaction_fields hw
    exact .inr ⟨hr, hp, hwr ▸ hbw, haddr ▸ hba, hcode, hinfo⟩

/-- Settles O49: an engine turn changes PHASE only by completion, a clock edge only by reset or acceptance. -/
theorem phaseChangesOnlyByAcceptanceCompletionOrReset :
    Obligations.PhaseChangesOnlyByAcceptanceCompletionOrReset := by
  intro s t h hne
  rcases step_next h with ⟨hs, ht⟩ | ⟨rest, hs, ht⟩ | ⟨p, rest, hs, ht⟩
  · obtain ⟨hb, hi, hc⟩ := engineTurn_completed_of_phase_change ht hne
    exact ⟨fun hp => absurd hp hb, fun _ => ⟨hi, .inr ⟨.inl hs, hc⟩⟩⟩
  · obtain ⟨hb, hi, hc⟩ := engineTurn_completed_of_phase_change ht hne
    exact ⟨fun hp => absurd hp hb, fun _ => ⟨hi, .inr ⟨.inr ⟨rest, hs⟩, hc⟩⟩⟩
  · rcases edgeTurn_phase_change ht hne with ⟨hr, hb, hi⟩ | ⟨hr, hp, hacc⟩
    · exact ⟨fun hp => absurd hp hb, fun _ => ⟨hi, .inl ⟨p, rest, hs, hr⟩⟩⟩
    · exact ⟨fun _ => ⟨p, rest, hs, hr, hacc⟩, fun hb => absurd hp hb⟩

end Sys2Proof.Machine
end

section
/-! Reads and the host's view (10_state R26, R41): every read responds with the value of a register, and what a
transaction does to the registers' values depends only on those values. -/

namespace Sys2Proof.Machine

theorem Reg.value_dout (s : State) (j : Fin 16) : (Reg.dout j).value s = byteAt s.out j.val :=
  (byteAt_of_lt s.out j.isLt).symm

/-- R103, R110 to R116: a read responds with the value of one register; an ignored one with that of CTRL, 0x00. -/
theorem exec_of_isRead {i : Instr} (h : isRead i = true) :
    ∃ r : Reg, ∀ s, exec i s = .next (respond (r.value s) s) := by
  cases i with
  | rdStatus => exact ⟨.status, fun _ => rfl⟩
  | rdErrcode => exact ⟨.errcode, fun _ => rfl⟩
  | rdErrinfo => exact ⟨.errinfo, fun _ => rfl⟩
  | rdKcnt => exact ⟨.kcnt, fun _ => rfl⟩
  | rdDcnt => exact ⟨.dcnt, fun _ => rfl⟩
  | rdDout j => exact ⟨.dout j.toFin, fun s => by rw [Reg.value_dout]; rfl⟩
  | accessIgnored w a d =>
    cases w with
    | true => cases h
    | false => exact ⟨.ctrl, fun _ => rfl⟩
  | _ => cases h

theorem isRead_decodeRead (a : BitVec 5) : isRead (decodeRead a) = true := by
  unfold decodeRead
  split_ifs <;> rfl

theorem isRead_decodeBus {w : BitVec 14} (h : busW w = false) : isRead (decodeBus w) = true := by
  rw [decodeBus, if_neg (by simp [h])]
  exact isRead_decodeRead _

theorem decodeRead_dout_addr (j : Fin 16) : decodeRead (Reg.dout j).addr = .rdDout (BitVec.ofFin j) := by
  revert j; decide

/-- R26: the read at a register's address responds with its value. -/
theorem exec_decodeRead_addr (r : Reg) (s : State) :
    exec (decodeRead r.addr) s = .next (respond (r.value s) s) := by
  cases r with
  | dout j => rw [decodeRead_dout_addr, Reg.value_dout]; rfl
  | _ => rfl

/-- Settles O25: a read responds with a register's value, at a register's address with that register's. -/
theorem readsFollowTheRegisterMap : Obligations.ReadsFollowTheRegisterMap := by
  refine ⟨exec_decodeRead_addr, fun a s => ?_⟩
  obtain ⟨r, hr⟩ := exec_of_isRead (isRead_decodeRead a)
  exact ⟨r.value s, hr s⟩

/-- R41: the parts of the state that the register values show. -/
@[ext] structure View where
  busy : Bool
  ksz : BitVec 2
  keyReady : Bool
  outValid : Bool
  errcode : Byte
  errinfo : Byte
  kcnt : BitVec 6
  dcnt : BitVec 5
  out : Vector Byte 16

/-- What the host can see of a state. -/
def view (s : State) : View where
  busy := busy s
  ksz := s.ksz
  keyReady := s.keyReady
  outValid := s.outValid
  errcode := s.errcode
  errinfo := s.errinfo
  kcnt := s.kcnt
  dcnt := s.dcnt
  out := s.out

/-- R28: the flags and KSZ, read back from STATUS. -/
theorem statusByte_fields (s : State) :
    (statusByte s).getLsbD 0 = busy s ∧ (statusByte s).getLsbD 1 = s.keyReady ∧
      (statusByte s).getLsbD 2 = s.outValid ∧ (statusByte s).extractLsb' 4 2 = s.ksz := by
  unfold statusByte
  generalize busy s = b, s.keyReady = k, s.outValid = o, err s = e, s.ksz = z
  revert b k o e z
  decide

theorem kcnt_eq_of_kcntByte_eq {s t : State} (h : kcntByte s = kcntByte t) : s.kcnt = t.kcnt := by
  have hn := congrArg BitVec.toNat h
  simp only [kcntByte, BitVec.toNat_setWidth] at hn
  exact BitVec.eq_of_toNat_eq (by omega)

theorem dcnt_eq_of_dcntByte_eq {s t : State} (h : dcntByte s = dcntByte t) : s.dcnt = t.dcnt := by
  have hn := congrArg BitVec.toNat h
  simp only [dcntByte, BitVec.toNat_setWidth] at hn
  exact BitVec.eq_of_toNat_eq (by omega)

/-- Two states read the same exactly when they have the same view. -/
theorem sameView_iff {s t : State} : SameView s t ↔ view s = view t := by
  constructor
  · intro h
    have hst : statusByte s = statusByte t := h .status
    obtain ⟨hb, hk, ho, hz⟩ := statusByte_fields s
    obtain ⟨hb', hk', ho', hz'⟩ := statusByte_fields t
    rw [hst] at hb hk ho hz
    exact View.ext (hb.symm.trans hb') (hz.symm.trans hz') (hk.symm.trans hk') (ho.symm.trans ho') (h .errcode)
      (h .errinfo) (kcnt_eq_of_kcntByte_eq (h .kcnt)) (dcnt_eq_of_dcntByte_eq (h .dcnt))
      (Vector.ext fun j hj => h (.dout ⟨j, hj⟩))
  · intro h r
    obtain ⟨hb, hz, hk, ho, hc, hi, hkc, hdc, hout⟩ := View.ext_iff.mp h
    cases r with
    | ctrl => rfl
    | keyin => rfl
    | din => rfl
    | status =>
      have he : err s = err t := congrArg (· != 0x00) hc
      change busy s = busy t at hb
      change s.ksz = t.ksz at hz
      change s.keyReady = t.keyReady at hk
      change s.outValid = t.outValid at ho
      rw [Reg.value, Reg.value, statusByte, statusByte, hb, hz, hk, ho, he]
    | errcode => exact hc
    | errinfo => exact hi
    | kcnt => exact congrArg (BitVec.setWidth 8) hkc
    | dcnt => exact congrArg (BitVec.setWidth 8) hdc
    | dout j => exact congrArg (fun o : Vector Byte 16 => o[j]) hout

/-! What each operation shows of itself. -/

section
variable (s : State)

@[simp] theorem view_report (code : ErrCode) (info : Byte) :
    view (report code info s) = { view s with errcode := code.byte, errinfo := info } := rfl

@[simp] theorem view_consumeKey : view (consumeKey s) = { view s with keyReady := false, kcnt := 0 } := rfl

@[simp] theorem view_consumeBlock :
    view (consumeBlock s) = { view s with out := Vector.replicate 16 0x00, outValid := false, dcnt := 0 } := rfl

@[simp] theorem view_startExpansion (c : BitVec 2) (nk : Nat) :
    view (startExpansion c nk s) = { view s with busy := true, ksz := c } := rfl

theorem view_startCipher {ph : Phase} (h : ph ≠ .idle) :
    view (startCipher ph s) = { view s with busy := true } := by
  rw [view, busy_eq_true.mpr (show (startCipher ph s).phase ≠ .idle from h)]; rfl

@[simp] theorem view_respond (d : Byte) : view (respond d s) = view s := rfl

theorem view_pushKey (d : Byte) :
    view (pushKey d s) =
      { view s with kcnt := if (view s).kcnt.toNat < 63 then (view s).kcnt + 1 else (view s).kcnt } := rfl

theorem view_pushBlock (d : Byte) :
    view (pushBlock d s) =
      { view s with dcnt := if (view s).dcnt.toNat < 31 then (view s).dcnt + 1 else (view s).dcnt } := rfl

end

/-! The commands look at nothing but the view. -/

section
variable {s t : State} (h : view s = view t)
include h

theorem view_commandKeyexp_congr (c : BitVec 2) : view (commandKeyexp c s) = view (commandKeyexp c t) := by
  have hb : busy s = busy t := congrArg View.busy h
  have hn : s.kcnt = t.kcnt := congrArg View.kcnt h
  rw [commandKeyexp, commandKeyexp, hb, kcntByte, hn, ← kcntByte]
  cases KeySize.ofCode c with
  | none => split <;> simp [h]
  | some ks => simp only; split_ifs <;> simp [h]

theorem view_commandCipher_congr {ph : Phase} (hph : ph ≠ .idle) :
    view (commandCipher ph s) = view (commandCipher ph t) := by
  have hb : busy s = busy t := congrArg View.busy h
  have hk : s.keyReady = t.keyReady := congrArg View.keyReady h
  have hn : s.dcnt = t.dcnt := congrArg View.dcnt h
  rw [commandCipher, commandCipher, hb, hk, dcntByte, hn, ← dcntByte]
  split_ifs <;> simp [h, view_startCipher _ hph]

theorem view_commandIllegal_congr : view (commandIllegal s) = view (commandIllegal t) := by
  have hb : busy s = busy t := congrArg View.busy h
  rw [commandIllegal, commandIllegal, hb]
  split <;> simp [h]

/-- A transaction that is no read, in two states with one view. -/
theorem exec_write_congr {i : Instr} (hi : i.format = .bus ∧ isRead i = false) :
    ∃ s' t', exec i s = .next s' ∧ exec i t = .next t' ∧ view s' = view t' := by
  cases i with
  | keyexp c => exact ⟨_, _, rfl, rfl, view_commandKeyexp_congr h c⟩
  | encrypt => exact ⟨_, _, rfl, rfl, view_commandCipher_congr h (by decide)⟩
  | decrypt => exact ⟨_, _, rfl, rfl, view_commandCipher_congr h (by decide)⟩
  | cmdIllegal d => exact ⟨_, _, rfl, rfl, view_commandIllegal_congr h⟩
  | wrKeyin d => exact ⟨_, _, rfl, rfl, by rw [view_pushKey, view_pushKey, h]⟩
  | wrDin d => exact ⟨_, _, rfl, rfl, by rw [view_pushBlock, view_pushBlock, h]⟩
  | accessIgnored w a d =>
    cases w with
    | true => exact ⟨s, t, rfl, rfl, h⟩
    | false => cases hi.2
  | _ => simp [Instr.format, isRead] at hi

end

/-- Settles O50: a read returns a register's value and changes no register, every other transaction maps views to
views. -/
theorem hostTransactionsDependOnlyOnWhatTheHostCanRead :
    Obligations.HostTransactionsDependOnlyOnWhatTheHostCanRead := by
  intro w s t hst
  have hv := sameView_iff.mp hst
  cases hr : isRead (decodeBus w) with
  | true =>
    obtain ⟨r, he⟩ := exec_of_isRead hr
    exact ⟨_, _, he s, he t, sameView_iff.mpr (by simp [hv]), fun _ => congrArg some (hst r)⟩
  | false =>
    obtain ⟨s', t', hs, ht, hv'⟩ := exec_write_congr hv ⟨decodeBus_format w, hr⟩
    exact ⟨s', t', hs, ht, sameView_iff.mpr hv', fun hw => by cases hr.symm.trans (isRead_decodeBus hw)⟩

end Sys2Proof.Machine
end

section
/-! The reset values (10_state R43), and the states in which a micro-operation has no meaning (assumption 5). -/

namespace Sys2Proof.Machine

theorem wordAt_zeros (i : Nat) : wordAt (Vector.replicate 60 Word.zero) i = Word.zero := by
  unfold wordAt; split <;> simp

/-- Settles O12: the reset values, array by array. -/
theorem resetStateHasTheListedValues : Obligations.ResetStateHasTheListedValues := by
  refine ⟨rfl, rfl, rfl, rfl, rfl, rfl, rfl, rfl, ?kbuf, rfl, ?dbuf, rfl, ?W, ?S, ?out, rfl, rfl, rfl⟩
  case kbuf => exact fun i _ => byteAt_zeros 32 i
  case dbuf => exact fun i _ => byteAt_zeros 16 i
  case W => exact fun i _ => wordAt_zeros i
  case S => exact Mat.get_zero
  case out => exact fun i _ => byteAt_zeros 16 i

/-- R25: 0b11 gives a micro-operation no Nk and no Nr. -/
theorem exec_uop_noKeySize {i : Instr} {s : State} (hi : i.format = .uop) (hk : s.ksz = 0b11) :
    exec i s = .fault .noKeySize := by
  have hn := KeySize.ofCode_eq_none.mpr hk
  rcases format_eq_uop.mp hi with rfl | hr
  · simp [exec, execKxw, hn]
  · rw [exec_roundOp hr, engineStep, hn]

/-- R83: outside its range of KI, KXW has no word to compute. -/
theorem exec_kxw_scheduleIndex {s : State} {ks : KeySize} (hk : KeySize.ofCode s.ksz = some ks)
    (hr : ¬(ks.nk ≤ s.ki.toNat ∧ s.ki.toNat < ks.scheduleLen)) :
    exec .kxw s = .fault (.scheduleIndex s.ki) := by
  simp [exec, execKxw, hk, hr]

/-- Settles O32: the two faults of the micro-operations. -/
theorem microOpsStopWithoutAKeySizeOrAnIndex : Obligations.MicroOpsStopWithoutAKeySizeOrAnIndex := by
  refine ⟨fun i s => exec_uop_noKeySize, fun s ks hk hr => exec_kxw_scheduleIndex hk fun ⟨hlo, hhi⟩ => ?_⟩
  rw [ks.scheduleLen_eq] at hhi
  omega

end Sys2Proof.Machine
end

section
/-! The layout of a block in the State (20_memory R47). -/

namespace Sys2Proof.Machine

/-- R47: serializing puts row `r` of column `c` at byte `r + 4c`. -/
theorem byteAt_storeMat_get (m : Mat) (r c : Fin 4) : byteAt (storeMat m) (r.val + 4 * c.val) = m.get r c := by
  have hrow : (r.val + 4 * c.val) % 4 = r.val := by omega
  have hcol : (r.val + 4 * c.val) / 4 = c.val := by omega
  rw [byteAt_storeMat m ⟨r.val + 4 * c.val, by omega⟩]
  exact congrArg₂ m.get (Fin.ext hrow) (Fin.ext hcol)

theorem storeMat_loadMat (b : Vector Byte 16) : storeMat (loadMat b) = b :=
  vector_ext_byteAt fun i hi => by
    rw [byteAt_storeMat _ ⟨i, hi⟩, loadMat_get]
    exact congrArg (byteAt b) (Nat.mod_add_div i 4)

theorem loadMat_storeMat (m : Mat) : loadMat (storeMat m) = m :=
  Mat.ext_get fun r c => by rw [loadMat_get, byteAt_storeMat_get]

/-- Settles O41: the index formulas of loading and serializing are inverse to each other. -/
theorem loadingAndSerializingAreColumnMajorAndInverse :
    Obligations.LoadingAndSerializingAreColumnMajorAndInverse :=
  ⟨loadMat_get, byteAt_storeMat_get, storeMat_loadMat, loadMat_storeMat⟩

end Sys2Proof.Machine
end

section
/-! Strings of bytes pushed over the bus (20_memory R37, R38, R45): the clock edge that pushes one byte, what a whole
string leaves in a buffer of any size, and the run whose schedule is that string. -/

namespace Sys2Proof.Machine

theorem busD_busWord (w : Bool) (a : BitVec 5) (d : Byte) : busD (busWord w a d) = d :=
  BitVec.extractLsb'_append_eq_right

/-- R102, R103: the clock edge of a write performs it, with nothing valid on the read port. -/
theorem takeTurn_write (a : BitVec 5) (d : Byte) (s : State) :
    takeTurn (.edge (Pins.ofWord (busWord true a d))) s = exec (decodeWrite a d) { s with rdata := none } := by
  simp [takeTurn, edgeTurn, Pins.ofWord, Pins.transaction, latchPort, decodeBus, busW_busWord, busA_busWord,
    busD_busWord]

/-- The clock edge of a push into the key buffer (R108). -/
def keyinEdge (d : Byte) (s : State) : State := pushKey d { s with rdata := none }

/-- The clock edge of a push into the block buffer (R109). -/
def dinEdge (d : Byte) (s : State) : State := pushBlock d { s with rdata := none }

theorem takeTurn_wr_keyin (d : Byte) (s : State) :
    takeTurn (.edge (Pins.ofWord (wr .keyin d))) s = .next (keyinEdge d s) := takeTurn_write _ d s

theorem takeTurn_wr_din (d : Byte) (s : State) :
    takeTurn (.edge (Pins.ofWord (wr .din d))) s = .next (dinEdge d s) := takeTurn_write _ d s

/-- The pushes of a string, first byte first. -/
def pushAll (push : Byte → State → State) (bytes : List Byte) (s : State) : State :=
  bytes.foldl (fun u d => push d u) s

@[simp] theorem pushAll_nil (push : Byte → State → State) (s : State) : pushAll push [] s = s := rfl

@[simp] theorem pushAll_cons (push : Byte → State → State) (d : Byte) (ds : List Byte) (s : State) :
    pushAll push (d :: ds) s = pushAll push ds (push d s) := rfl

section
variable {word : Byte → BitVec 14} {push : Byte → State → State}
  (hpush : ∀ d s, takeTurn (.edge (Pins.ofWord (word d))) s = .next (push d s))
include hpush

theorem takeTurns_pushAll (bytes : List Byte) (s : State) :
    takeTurns (turnsOf (bytes.map word)) s = .next (pushAll push bytes s) := by
  induction bytes generalizing s with
  | nil => rfl
  | cons d ds ih =>
    simp only [turnsOf, List.map_cons, takeTurns, hpush]
    exact ih (push d s)

/-- R53: with a string's writes as its schedule, a state runs to the state after the string's pushes. -/
theorem runsTo_pushAll {bytes : List Byte} {s : State} (hs : s.sched = turnsOf (bytes.map word)) :
    RunsTo bytes.length s { pushAll push bytes s with sched := [] } := by
  have hrun := runsTo_schedule _ (takeTurns_pushAll hpush bytes s)
  have hlen : (turnsOf (bytes.map word)).length = bytes.length := by simp [turnsOf]
  rwa [hlen, ← hs] at hrun

end

/-- R37, R38: a push stores its byte at the count, in a buffer of `cap` bytes, and its count saturates at `lim`. -/
structure StoresAtCount (push : Byte → State → State) (count : State → Nat) (read : State → Nat → Byte)
    (cap lim : Nat) : Prop where
  count_push : ∀ d s, count (push d s) = min (count s + 1) lim
  read_push : ∀ d s i, read (push d s) i = if i = count s ∧ i < cap then d else read s i

theorem keyinEdge_storesAtCount :
    StoresAtCount keyinEdge (fun s => s.kcnt.toNat) (fun s => byteAt s.kbuf) 32 63 where
  count_push d s := pushKey_kcnt_toNat d { s with rdata := none }
  read_push d s := byteAt_pushKey d { s with rdata := none }

theorem dinEdge_storesAtCount :
    StoresAtCount dinEdge (fun s => s.dcnt.toNat) (fun s => byteAt s.dbuf) 16 31 where
  count_push d s := pushBlock_dcnt_toNat d { s with rdata := none }
  read_push d s := byteAt_pushBlock d { s with rdata := none }

namespace StoresAtCount

variable {push : Byte → State → State} {count : State → Nat} {read : State → Nat → Byte} {cap lim : Nat}

theorem count_pushAll (h : StoresAtCount push count read cap lim) (bytes : List Byte) {s : State}
    (hs : count s ≤ lim) : count (pushAll push bytes s) = min (count s + bytes.length) lim := by
  induction bytes generalizing s with
  | nil => simpa using hs
  | cons d ds ih =>
    have hc := h.count_push d s
    rw [pushAll_cons, ih (by omega), List.length_cons]
    omega

/-- R45: the bytes of a string lie from the count on, in index order. -/
theorem read_pushAll (h : StoresAtCount push count read cap lim) (hcap : cap ≤ lim) (bytes : List Byte) (s : State)
    {i : Nat} (hi : i < cap) :
    read (pushAll push bytes s) i =
      if count s ≤ i ∧ i < count s + bytes.length then bytes.getD (i - count s) 0x00 else read s i := by
  induction bytes generalizing s with
  | nil => rw [pushAll_nil, if_neg (by simp)]
  | cons d ds ih =>
    have hc := h.count_push d s
    rw [pushAll_cons, ih, h.read_push, List.length_cons]
    rcases Nat.lt_trichotomy i (count s) with hlt | heq | hgt
    · rw [if_neg (by omega), if_neg (by omega), if_neg (by omega)]
    · rw [if_neg (by omega), if_pos ⟨heq, hi⟩, if_pos (by omega), heq, Nat.sub_self, List.getD_cons_zero]
    · have hnext : count (push d s) = count s + 1 := by omega
      have hidx : i - count s = (i - (count s + 1)) + 1 := by omega
      rw [hnext, if_neg (c := i = count s ∧ i < cap) (by omega), hidx, List.getD_cons_succ]
      exact if_congr (by omega) rfl rfl

end StoresAtCount

/-- R108: pushes into the key buffer leave every other register as it was. -/
theorem pushAll_keyinEdge_frame (bytes : List Byte) (s : State) :
    pushAll keyinEdge bytes s = { s with
      kbuf := (pushAll keyinEdge bytes s).kbuf, kcnt := (pushAll keyinEdge bytes s).kcnt,
      rdata := (pushAll keyinEdge bytes s).rdata } := by
  induction bytes generalizing s with
  | nil => rfl
  | cons d ds ih => exact ih (keyinEdge d s)

/-- R109: pushes into the block buffer leave every other register as it was. -/
theorem pushAll_dinEdge_frame (bytes : List Byte) (s : State) :
    pushAll dinEdge bytes s = { s with
      dbuf := (pushAll dinEdge bytes s).dbuf, dcnt := (pushAll dinEdge bytes s).dcnt,
      rdata := (pushAll dinEdge bytes s).rdata } := by
  induction bytes generalizing s with
  | nil => rfl
  | cons d ds ih => exact ih (dinEdge d s)

/-- Settles O21: the run is the string's pushes, and a string pushed at count 0 lies there from byte 0 on. -/
theorem pushedBytesLieInTheBufferInOrder : Obligations.PushedBytesLieInTheBufferInOrder := by
  refine fun bytes s => ⟨fun hs h0 => ?key, fun hs h0 => ?block⟩
  case key =>
    have hcount : s.kcnt.toNat = 0 := by rw [h0]; rfl
    refine ⟨_, runsTo_pushAll takeTurn_wr_keyin hs,
      congrArg (fun u : State => { u with sched := [] }) (pushAll_keyinEdge_frame bytes s), ?_, fun i hi => ?_⟩
    · simpa [hcount] using keyinEdge_storesAtCount.count_pushAll bytes (s := s) (by omega)
    · simpa [hcount] using keyinEdge_storesAtCount.read_pushAll (by decide) bytes s hi
  case block =>
    have hcount : s.dcnt.toNat = 0 := by rw [h0]; rfl
    refine ⟨_, runsTo_pushAll takeTurn_wr_din hs,
      congrArg (fun u : State => { u with sched := [] }) (pushAll_dinEdge_frame bytes s), ?_, fun i hi => ?_⟩
    · simpa [hcount] using dinEdge_storesAtCount.count_pushAll bytes (s := s) (by omega)
    · simpa [hcount] using dinEdge_storesAtCount.read_pushAll (by decide) bytes s hi

end Sys2Proof.Machine
end

section
/-! The decoder and the encoder (30_encoding R59 to R64), said once: a word decodes by its fields, the command function
splits the bytes into four families, and an address is named by one of the reads or ignored. -/

namespace Sys2Proof.Machine

/-! Words and their fields. -/

/-- R59: a transaction word is put together from its fields. -/
theorem busWord_fields (t : BitVec 14) : busWord (busW t) (busA t) (busD t) = t := by
  have hW : BitVec.ofBool (busW t) = t.extractLsb' 13 1 := by
    ext i hi
    obtain rfl : i = 0 := by omega
    simp [busW, BitVec.getLsbD]
  rw [busWord, hW, busA, busD, BitVec.extractLsb'_append_extractLsb'_eq_extractLsb' (by rfl),
    BitVec.extractLsb'_append_extractLsb'_eq_extractLsb' (by rfl), BitVec.extractLsb'_eq_self]

/-- R63: a transaction word decodes as a write or a read of its fields. -/
@[simp] theorem decodeBus_busWord (w : Bool) (a : BitVec 5) (d : Byte) :
    decodeBus (busWord w a d) = if w then decodeWrite a d else decodeRead a := by
  rw [decodeBus, busW_busWord, busA_busWord, busD_busWord]

/-- R63: every 14-bit number is a transaction word. -/
theorem decode_bus (t : BitVec 14) : decode .bus t.toNat = .ok (decodeBus t) := by
  rw [decode, if_pos t.isLt, BitVec.ofNat_toNat, BitVec.setWidth_eq]

theorem decode_uop (u : Byte) : decode .uop u.toNat = decodeUop u := by
  rw [decode, if_pos u.isLt, BitVec.ofNat_toNat, BitVec.setWidth_eq]

theorem decode_write (a : BitVec 5) (d : Byte) : decode .bus (busWord true a d).toNat = .ok (decodeWrite a d) := by
  rw [decode_bus, decodeBus_busWord, if_pos rfl]

theorem decode_read (a : BitVec 5) (d : Byte) : decode .bus (busWord false a d).toNat = .ok (decodeRead a) := by
  rw [decode_bus, decodeBus_busWord, if_neg (by decide)]

/-- R61: the fields of a micro-op word that was put together from them. -/
@[simp] theorem uopKind_uopWord (kind rnd : BitVec 4) : uopKind (uopWord kind rnd) = kind := by
  rw [uopKind, uopWord, BitVec.extractLsb'_append_eq_left]

@[simp] theorem uopRnd_uopWord (kind rnd : BitVec 4) : uopRnd (uopWord kind rnd) = rnd :=
  BitVec.extractLsb'_append_eq_right

/-- R61: an ARK takes every round number of its type from RND. -/
theorem decodeUop_ark (rnd : Fin 15) : decodeUop (uopWord 0x2 (BitVec.ofNat 4 rnd.val)) = .ok (.ark rnd) := by
  revert rnd; decide

/-! The command function (R60). -/

theorem decodeCmd_keyexp (ksz : BitVec 2) : decodeCmd (cmdByte ksz 0b001) = .keyexp ksz := by
  revert ksz; decide

theorem decodeCmd_encrypt : decodeCmd (cmdByte 0b00 0b010) = .encrypt := by decide

theorem decodeCmd_decrypt : decodeCmd (cmdByte 0b00 0b011) = .decrypt := by decide

theorem decodeCmd_of_not_mem {d : Byte} (h : d ∉ commandBytes) : decodeCmd d = .cmdIllegal d := by
  revert d; decide

theorem cmdByte_of_mem {d : Byte} (h : d ∈ commandBytes) :
    (∃ ksz, d = cmdByte ksz 0b001) ∨ d = cmdByte 0b00 0b010 ∨ d = cmdByte 0b00 0b011 := by
  revert d; decide

/-- R60: every byte is in one of four families, and the command function answers that family's instruction. -/
theorem decodeCmd_cases (d : Byte) :
    (∃ ksz, d = cmdByte ksz 0b001 ∧ decodeCmd d = .keyexp ksz) ∨
    (d = cmdByte 0b00 0b010 ∧ decodeCmd d = .encrypt) ∨
    (d = cmdByte 0b00 0b011 ∧ decodeCmd d = .decrypt) ∨
    (d ∉ commandBytes ∧ decodeCmd d = .cmdIllegal d) := by
  by_cases h : d ∈ commandBytes
  · obtain ⟨ksz, rfl⟩ | rfl | rfl := cmdByte_of_mem h
    · exact .inl ⟨ksz, rfl, decodeCmd_keyexp ksz⟩
    · exact .inr (.inl ⟨rfl, decodeCmd_encrypt⟩)
    · exact .inr (.inr (.inl ⟨rfl, decodeCmd_decrypt⟩))
  · exact .inr (.inr (.inr ⟨h, decodeCmd_of_not_mem h⟩))

/-- Settles O4: the six bytes are the commands' own encodings, and the others are in no command's family. -/
theorem exactlySixBytesAreCommands : Obligations.ExactlySixBytesAreCommands :=
  ⟨decodeCmd_keyexp 0b00, decodeCmd_keyexp 0b01, decodeCmd_keyexp 0b10, decodeCmd_keyexp 0b11, decodeCmd_encrypt,
    decodeCmd_decrypt, fun _ => decodeCmd_of_not_mem⟩

/-! Writes and reads by their address (R36, R63). -/

theorem writeIgnored_iff {a : BitVec 5} : writeIgnored a = true ↔ a ≠ 0x00 ∧ a ≠ 0x04 ∧ a ≠ 0x06 := by
  simp [writeIgnored, and_assoc]

/-- R63: a write is one of CTRL, KEYIN or DIN, or it is ignored. -/
theorem decodeWrite_cases (a : BitVec 5) (d : Byte) :
    (a = 0x00 ∧ decodeWrite a d = decodeCmd d) ∨ (a = 0x04 ∧ decodeWrite a d = .wrKeyin d) ∨
    (a = 0x06 ∧ decodeWrite a d = .wrDin d) ∨
    (writeIgnored a = true ∧ decodeWrite a d = .accessIgnored true a d) := by
  rw [decodeWrite]
  split_ifs with hctrl hkeyin hdin
  · exact .inl ⟨hctrl, rfl⟩
  · exact .inr (.inl ⟨hkeyin, rfl⟩)
  · exact .inr (.inr (.inl ⟨hdin, rfl⟩))
  · exact .inr (.inr (.inr ⟨writeIgnored_iff.mpr ⟨hctrl, hkeyin, hdin⟩, rfl⟩))

theorem decodeWrite_ignored {a : BitVec 5} (h : writeIgnored a = true) (d : Byte) :
    decodeWrite a d = .accessIgnored true a d := by
  obtain ⟨hctrl, hkeyin, hdin⟩ := writeIgnored_iff.mp h
  rw [decodeWrite, if_neg hctrl, if_neg hkeyin, if_neg hdin]

theorem decodeRead_ignored {a : BitVec 5} (h : readIgnored a = true) :
    decodeRead a = .accessIgnored false a 0x00 := by
  revert a; decide

/-- R35: a read at an address with bit 4 set is one of the output block. -/
theorem decodeRead_dout (j : BitVec 4) : decodeRead (0b1#1 ++ j) = .rdDout j := by
  revert j; decide

/-- Settles O1: in each case the fields of the canonical word lead the decoder back to the instruction; for the
catch-all rows this is what well-formedness asks of the operands. -/
theorem decodingAnEncodingGivesTheInstructionBack : Obligations.DecodingAnEncodingGivesTheInstructionBack := by
  intro i hwf
  cases i with
  | keyexp ksz => exact (decode_write _ _).trans (congrArg _ (decodeCmd_keyexp ksz))
  | encrypt => exact (decode_write _ _).trans (congrArg _ decodeCmd_encrypt)
  | decrypt => exact (decode_write _ _).trans (congrArg _ decodeCmd_decrypt)
  | cmdIllegal d =>
    have hd : d ∉ commandBytes := by simpa [Instr.wf] using hwf
    exact (decode_write _ _).trans (congrArg _ (decodeCmd_of_not_mem hd))
  | wrKeyin d => exact decode_write 0x04 d
  | wrDin d => exact decode_write 0x06 d
  | rdStatus => exact decode_read 0x01 0x00
  | rdErrcode => exact decode_read 0x02 0x00
  | rdErrinfo => exact decode_read 0x03 0x00
  | rdKcnt => exact decode_read 0x05 0x00
  | rdDcnt => exact decode_read 0x07 0x00
  | rdDout j => exact (decode_read _ _).trans (congrArg _ (decodeRead_dout j))
  | accessIgnored w a d =>
    cases w with
    | true => exact (decode_write a d).trans (congrArg _ (decodeWrite_ignored hwf d))
    | false =>
      obtain ⟨ha, rfl⟩ : readIgnored a = true ∧ d = 0x00 := by simpa [Instr.wf] using hwf
      exact (decode_read a _).trans (congrArg _ (decodeRead_ignored ha))
  | ark rnd => exact (decode_uop _).trans (decodeUop_ark rnd)
  | kxw => rfl
  | sb => rfl
  | isb => rfl
  | sr => rfl
  | isr => rfl
  | mc => rfl
  | imc => rfl

end Sys2Proof.Machine
end

section
/-! The opcode map (30_encoding R63): a word matches a row field by field, and of the rows that match it the decoder
takes the first. -/

namespace Sys2Proof.Machine

/-- R63: a write decodes to a well-formed instruction with the write's own word. -/
theorem decodeWrite_restored (a : BitVec 5) (d : Byte) :
    (decodeWrite a d).wf = true ∧ encode (decodeWrite a d) = (busWord true a d).toNat := by
  obtain ⟨rfl, h⟩ | ⟨rfl, h⟩ | ⟨rfl, h⟩ | ⟨ha, h⟩ := decodeWrite_cases a d
  · rw [h]
    obtain ⟨ksz, rfl, hc⟩ | ⟨rfl, hc⟩ | ⟨rfl, hc⟩ | ⟨hd, hc⟩ := decodeCmd_cases d
    · rw [hc]; exact ⟨rfl, rfl⟩
    · rw [hc]; exact ⟨rfl, rfl⟩
    · rw [hc]; exact ⟨rfl, rfl⟩
    · rw [hc]; exact ⟨by simpa [Instr.wf] using hd, rfl⟩
  · rw [h]; exact ⟨rfl, rfl⟩
  · rw [h]; exact ⟨rfl, rfl⟩
  · rw [h]; exact ⟨ha, rfl⟩

/-- R63: a read decodes to a well-formed instruction with the word of that read and D = 0. -/
theorem decodeRead_restored (a : BitVec 5) :
    (decodeRead a).wf = true ∧ encode (decodeRead a) = (busWord false a 0x00).toNat := by
  revert a; decide

/-- Settles O2: a write and a read are each restored from their fields, of which the word is made. -/
theorem everyTransactionWordDecodesAndIsRestored : Obligations.EveryTransactionWordDecodesAndIsRestored := by
  intro t
  rw [decodeBus]
  cases hw : busW t with
  | true =>
    obtain ⟨hwf, henc⟩ := decodeWrite_restored (busA t) (busD t)
    exact ⟨hwf, by simpa [decodeBus, hw] using decodeBus_format t, henc, hw ▸ busWord_fields t⟩
  | false =>
    obtain ⟨hwf, henc⟩ := decodeRead_restored (busA t)
    exact ⟨hwf, by simpa [decodeBus, hw] using decodeBus_format t, henc, hw ▸ busWord_fields t⟩

/-! Matching a row, field by field. -/

theorem busWord_inj {w w' : Bool} {a a' : BitVec 5} {d d' : Byte} :
    busWord w a d = busWord w' a' d' ↔ w = w' ∧ a = a' ∧ d = d' := by
  constructor
  · intro h
    have hw := congrArg busW h
    have ha := congrArg busA h
    have hd := congrArg busD h
    rw [busW_busWord, busW_busWord] at hw
    rw [busA_busWord, busA_busWord] at ha
    rw [busD_busWord, busD_busWord] at hd
    exact ⟨hw, ha, hd⟩
  · rintro ⟨rfl, rfl, rfl⟩; rfl

theorem busWord_and (w w' : Bool) (a a' : BitVec 5) (d d' : Byte) :
    busWord w a d &&& busWord w' a' d' = busWord (w && w') (a &&& a') (d &&& d') := by
  rw [busWord, busWord, BitVec.and_append, BitVec.and_append, BitVec.ofBool_and_ofBool, busWord]

/-- A row that looks at W, and at A and D under the given masks. -/
def fieldRow (w : Bool) (maskA patA : BitVec 5) (maskD patD : Byte) (priority : Nat) : Row :=
  ⟨(busWord true maskA maskD).toNat, (busWord w patA patD).toNat, priority⟩

/-- R63: a word matches a row when each of its fields does. -/
theorem fieldRow_hits {w : Bool} {maskA patA : BitVec 5} {maskD patD : Byte} {priority : Nat} {t : BitVec 14} :
    (fieldRow w maskA patA maskD patD priority).hits t.toNat = true ↔
      busW t = w ∧ busA t &&& maskA = patA ∧ busD t &&& maskD = patD := by
  conv_lhs => rw [← busWord_fields t]
  rw [Row.hits, fieldRow, beq_iff_eq, ← BitVec.toNat_and, BitVec.toNat_inj, busWord_and, Bool.and_true, busWord_inj]

/-- R63: the opcode map, field by field; only the last row does not look at W. -/
theorem busRows_eq : busRows =
    [fieldRow true 0x1f 0x00 0xcf 0x01 1, fieldRow true 0x1f 0x00 0xff 0x02 1, fieldRow true 0x1f 0x00 0xff 0x03 1,
      fieldRow true 0x1f 0x00 0x00 0x00 2, fieldRow true 0x1f 0x04 0x00 0x00 1, fieldRow true 0x1f 0x06 0x00 0x00 1,
      fieldRow false 0x1f 0x01 0x00 0x00 1, fieldRow false 0x1f 0x02 0x00 0x00 1,
      fieldRow false 0x1f 0x03 0x00 0x00 1, fieldRow false 0x1f 0x05 0x00 0x00 1,
      fieldRow false 0x1f 0x07 0x00 0x00 1, fieldRow false 0x10 0x10 0x00 0x00 1,
      (Instr.accessIgnored false 0 0).row] := rfl

/-- R63: the rows of one address look at W and all of A. -/
theorem addressRow_hits {w : Bool} {a : BitVec 5} {priority : Nat} {t : BitVec 14} :
    (fieldRow w 0x1f a 0x00 0x00 priority).hits t.toNat = true ↔ busW t = w ∧ busA t = a := by
  rw [fieldRow_hits, show (0x1f : BitVec 5) = BitVec.allOnes 5 from rfl, BitVec.and_allOnes]
  simp

/-- R63: the last row matches every word. -/
theorem ignoredRow_hits (w : Nat) : (Instr.accessIgnored false 0 0).row.hits w = true := by
  simp [Row.hits, Instr.row]

/-! The row of the decoded instruction matches the word. -/

/-- R61, R63: the canonical word of every well-formed instruction matches its row. -/
theorem row_hits_encode {i : Instr} (h : i.wf = true) : i.row.hits (encode i) = true := by
  open Laws.EncodeMatchesRow in
  cases i with
  | keyexp ksz => exact keyexp ksz h
  | encrypt => exact encrypt h
  | decrypt => exact decrypt h
  | cmdIllegal d => exact cmdIllegal d h
  | wrKeyin d => exact wrKeyin d h
  | wrDin d => exact wrDin d h
  | rdStatus => exact rdStatus h
  | rdErrcode => exact rdErrcode h
  | rdErrinfo => exact rdErrinfo h
  | rdKcnt => exact rdKcnt h
  | rdDcnt => exact rdDcnt h
  | rdDout j => exact rdDout j h
  | accessIgnored w a d => exact accessIgnored w a d h
  | kxw => exact kxw h
  | ark rnd => exact ark rnd h
  | sb => exact sb h
  | isb => exact isb h
  | sr => exact sr h
  | isr => exact isr h
  | mc => exact mc h
  | imc => exact imc h

theorem decodeBus_write {t : BitVec 14} (hw : busW t = true) : decodeBus t = decodeWrite (busA t) (busD t) :=
  if_pos hw

theorem decodeBus_read {t : BitVec 14} (hw : busW t = false) : decodeBus t = decodeRead (busA t) :=
  if_neg (by simp [hw])

theorem dout_mask_of_bit {a : BitVec 5} (h : a.getLsbD 4 = true) : a &&& 0x10 = 0x10 := by
  revert a; decide

/-- R63: a read's row does not look at D, which decoding drops (R59). -/
theorem decodeRead_row_hits {t : BitVec 14} (hw : busW t = false) :
    (decodeRead (busA t)).row.hits t.toNat = true := by
  rw [decodeRead]
  split_ifs with hstatus herrcode herrinfo hkcnt hdcnt hdout
  · exact addressRow_hits (priority := 1).mpr ⟨hw, hstatus⟩
  · exact addressRow_hits (priority := 1).mpr ⟨hw, herrcode⟩
  · exact addressRow_hits (priority := 1).mpr ⟨hw, herrinfo⟩
  · exact addressRow_hits (priority := 1).mpr ⟨hw, hkcnt⟩
  · exact addressRow_hits (priority := 1).mpr ⟨hw, hdcnt⟩
  · exact fieldRow_hits (priority := 1).mpr ⟨hw, dout_mask_of_bit hdout, BitVec.and_zero⟩
  · exact ignoredRow_hits _

theorem decodeBus_row_hits (t : BitVec 14) : (decodeBus t).row.hits t.toNat = true := by
  cases hw : busW t with
  | true =>
    obtain ⟨hwf, henc⟩ := decodeWrite_restored (busA t) (busD t)
    have h := row_hits_encode hwf
    rwa [henc, ← decodeBus_write hw, show busWord true (busA t) (busD t) = t from hw ▸ busWord_fields t] at h
  | false => rw [decodeBus_read hw]; exact decodeRead_row_hits hw

/-! Every other row that matches the word comes later. -/

/-- R63: every transaction's row stands in the map. -/
theorem row_mem_busRows {i : Instr} (h : i.format = .bus) : i.row ∈ busRows := by
  cases i <;> simp [busRows, Instr.row, Instr.format] at h ⊢

/-- R63: the last row is the only one of its priority. -/
theorem row_eq_ignored_or_priority_lt {i : Instr} (h : i.format = .bus) :
    (Instr.accessIgnored false 0 0).row = i.row ∨ i.row.priority < 3 := by
  cases i <;> simp [Instr.row, Instr.format] at h ⊢

/-- R63: a byte written to CTRL decodes to a row of the catch-all's address, or to one of the commands before it. -/
theorem decodeCmd_row (d : Byte) :
    (Instr.cmdIllegal 0).row = (decodeCmd d).row ∨ (decodeCmd d).row.priority < 2 := by
  obtain ⟨ksz, -, h⟩ | ⟨-, h⟩ | ⟨-, h⟩ | ⟨-, h⟩ := decodeCmd_cases d
  · rw [h]; exact .inr Nat.one_lt_two
  · rw [h]; exact .inr Nat.one_lt_two
  · rw [h]; exact .inr Nat.one_lt_two
  · rw [h]; exact .inl rfl

/-! A word that matches a row has the fields of one that decodes to it. -/

theorem decodeCmd_row_of_keyexp_mask {d : Byte} (h : d &&& 0xcf = 0x01) :
    (Instr.keyexp 0).row = (decodeCmd d).row := by
  revert d; decide

theorem decodeCmd_row_of_encrypt_mask {d : Byte} (h : d &&& 0xff = 0x02) :
    Instr.encrypt.row = (decodeCmd d).row := by
  revert d; decide

theorem decodeCmd_row_of_decrypt_mask {d : Byte} (h : d &&& 0xff = 0x03) :
    Instr.decrypt.row = (decodeCmd d).row := by
  revert d; decide

theorem decodeRead_row_of_dout_mask {a : BitVec 5} (h : a &&& 0x10 = 0x10) :
    (Instr.rdDout 0).row = (decodeRead a).row := by
  revert a; decide

/-- A word that matches the row of one address is a transaction there. -/
theorem decodeBus_row_of_addressRow {w : Bool} {a : BitVec 5} {n : Nat} {t : BitVec 14}
    (h : (fieldRow w 0x1f a 0x00 0x00 n).hits t.toNat = true) :
    (if w then decodeWrite a (busD t) else decodeRead a).row = (decodeBus t).row := by
  obtain ⟨rfl, rfl⟩ := addressRow_hits.mp h
  rfl

/-- A word that matches a row of CTRL is a write there, of a byte that matches. -/
theorem decodeBus_of_ctrlRow {maskD patD : Byte} {n : Nat} {t : BitVec 14}
    (h : (fieldRow true 0x1f 0x00 maskD patD n).hits t.toNat = true) :
    decodeBus t = decodeCmd (busD t) ∧ busD t &&& maskD = patD := by
  obtain ⟨hw, ha, hd⟩ := fieldRow_hits.mp h
  rw [show (0x1f : BitVec 5) = BitVec.allOnes 5 from rfl, BitVec.and_allOnes] at ha
  exact ⟨by rw [decodeBus_write hw, ha]; rfl, hd⟩

/-- R63: a row of the map that matches a word is the row of the decoded instruction, or comes after it. -/
theorem row_eq_or_later (t : BitVec 14) : ∀ r ∈ busRows, r.hits t.toNat = true →
    r = (decodeBus t).row ∨ (decodeBus t).row.priority < r.priority := by
  simp only [busRows_eq, List.forall_mem_cons]
  refine ⟨?keyexp, ?encrypt, ?decrypt, ?cmdIllegal, ?wrKeyin, ?wrDin, ?rdStatus, ?rdErrcode, ?rdErrinfo, ?rdKcnt,
    ?rdDcnt, ?rdDout, ?accessIgnored, by simp⟩ <;> intro h
  case keyexp =>
    obtain ⟨hdec, hd⟩ := decodeBus_of_ctrlRow h
    exact .inl (hdec ▸ decodeCmd_row_of_keyexp_mask hd)
  case encrypt =>
    obtain ⟨hdec, hd⟩ := decodeBus_of_ctrlRow h
    exact .inl (hdec ▸ decodeCmd_row_of_encrypt_mask hd)
  case decrypt =>
    obtain ⟨hdec, hd⟩ := decodeBus_of_ctrlRow h
    exact .inl (hdec ▸ decodeCmd_row_of_decrypt_mask hd)
  case cmdIllegal =>
    obtain ⟨hdec, -⟩ := decodeBus_of_ctrlRow h
    exact hdec ▸ decodeCmd_row (busD t)
  case wrKeyin => exact .inl (decodeBus_row_of_addressRow h)
  case wrDin => exact .inl (decodeBus_row_of_addressRow h)
  case rdStatus => exact .inl (decodeBus_row_of_addressRow h)
  case rdErrcode => exact .inl (decodeBus_row_of_addressRow h)
  case rdErrinfo => exact .inl (decodeBus_row_of_addressRow h)
  case rdKcnt => exact .inl (decodeBus_row_of_addressRow h)
  case rdDcnt => exact .inl (decodeBus_row_of_addressRow h)
  case rdDout =>
    obtain ⟨hw, ha, -⟩ := fieldRow_hits.mp h
    exact .inl (decodeBus_read hw ▸ decodeRead_row_of_dout_mask ha)
  case accessIgnored => exact row_eq_ignored_or_priority_lt (decodeBus_format t)

/-- Settles O3: the decoded row matches, and any other row that does comes later. -/
theorem transactionsDecodeByTheFirstMatchingRow : Obligations.TransactionsDecodeByTheFirstMatchingRow :=
  fun t => ⟨row_mem_busRows (decodeBus_format t), decodeBus_row_hits t,
    fun r hr h hne => (row_eq_or_later t r hr h).resolve_left hne⟩

end Sys2Proof.Machine
end

section
/-! Micro-op words by their KIND (30_encoding R61, R64), and words written out from the spec. -/

namespace Sys2Proof.Machine

/-- Settles O5: decoding looks at KIND, which is the word's upper half whatever RND is. -/
theorem microOpWordsDecodeByTheirKind : Obligations.MicroOpWordsDecodeByTheirKind := by
  refine ⟨fun k r hk => ?unused, fun r => ?used, decodeUop_ark, by decide⟩
  case unused =>
    obtain ⟨h1, h2, h3, h4, h5, h6, h7, h8⟩ :
        k ≠ 1 ∧ k ≠ 2 ∧ k ≠ 3 ∧ k ≠ 4 ∧ k ≠ 5 ∧ k ≠ 6 ∧ k ≠ 7 ∧ k ≠ 8 := by revert k; decide
    rw [decodeUop, uopKind_uopWord, if_neg h1, if_neg h2, if_neg h3, if_neg h4, if_neg h5, if_neg h6, if_neg h7,
      if_neg h8]
  case used => simp [decodeUop]

/-- Settles O6: each word is its instruction's canonical word, but for the read of STATUS with data 0x55. -/
theorem sampleWordsDecode : Obligations.SampleWordsDecode := by
  have canonical := decodingAnEncodingGivesTheInstructionBack
  exact ⟨canonical (.keyexp 0b10) rfl, canonical .encrypt rfl, canonical .decrypt rfl, canonical (.cmdIllegal 0x12) rfl,
    canonical (.wrKeyin 0x02) rfl, canonical (.wrDin 0x55) rfl, decode_read 0x01 0x55, canonical .rdErrcode rfl,
    canonical .rdErrinfo rfl, canonical .rdKcnt rfl, canonical .rdDcnt rfl, canonical (.rdDout 15) rfl,
    canonical (.accessIgnored false 0x0f 0x00) rfl, canonical (.accessIgnored true 0x1f 0x55) rfl, canonical .kxw rfl,
    canonical (.ark 14) rfl, canonical .imc rfl⟩

end Sys2Proof.Machine
end

section
/-! The host's assembly (30_encoding R67, R68): what the transactions of the pseudo-instructions decode to. -/

namespace Sys2Proof.Machine

/-- R67: `WR` decodes as a write at the register's address. -/
theorem decodeBus_wr (r : Reg) (imm : Byte) : decodeBus (wr r imm) = decodeWrite r.addr imm :=
  decodeBus_busWord true r.addr imm

/-- R67: `RD` decodes as a read at the register's address. -/
theorem decodeBus_rd (r : Reg) : decodeBus (rd r) = decodeRead r.addr :=
  decodeBus_busWord false r.addr 0x00

theorem decodeBus_wr_keyin (d : Byte) : decodeBus (wr .keyin d) = .wrKeyin d := decodeBus_wr .keyin d

theorem decodeBus_wr_din (d : Byte) : decodeBus (wr .din d) = .wrDin d := decodeBus_wr .din d

theorem decodeBus_rd_status : decodeBus (rd .status) = .rdStatus := decodeBus_rd .status

theorem decodeBus_rd_dout (j : Fin 16) : decodeBus (rd (.dout j)) = .rdDout (BitVec.ofFin j) :=
  (decodeBus_rd _).trans (decodeRead_dout_addr j)

/-- Settles O46: each transaction decodes by its register; the strings and the reads of WAIT_IDLE one by one. -/
theorem pseudoInstructionsExpandToTheirTransactions : Obligations.PseudoInstructionsExpandToTheirTransactions := by
  refine ⟨rfl, rfl, rfl, rfl, rfl, fun bytes => ?loadKey, fun bytes => ?loadBlk, fun n => ?waitIdle, ?readout, rfl⟩
  case loadKey => rw [Pseudo.expand, List.map_map]; exact List.map_congr_left fun d _ => decodeBus_wr_keyin d
  case loadBlk => rw [Pseudo.expand, List.map_map]; exact List.map_congr_left fun d _ => decodeBus_wr_din d
  case waitIdle => rw [Pseudo.expand, List.map_replicate, decodeBus_rd_status]
  case readout =>
    calc Pseudo.readout.expand.map decodeBus
      _ = (List.finRange 16).map fun j => .rdDout (BitVec.ofFin j) := by
        rw [Pseudo.expand, List.map_map]; exact List.map_congr_left fun j _ => decodeBus_rd_dout j
      _ = (List.range 16).map fun j => .rdDout (BitVec.ofNat 4 j) := by decide

end Sys2Proof.Machine
end

section
/-! A word placed by `withFetchWord` (assumption 11): a transaction at the next clock edge, a micro-operation at a place
of a micro-program that holds it. -/

namespace Sys2Proof.Machine

/-! A transaction word. -/

@[simp] theorem Pins.rst_ofWord (t : BitVec 14) : (Pins.ofWord t).rst = false := rfl

@[simp] theorem Pins.rdEn_ofWord (t : BitVec 14) : (Pins.ofWord t).rdEn = !busW t := rfl

/-- R59, R102: the ports that carry a word carry that transaction. -/
@[simp] theorem Pins.transaction_ofWord (t : BitVec 14) : (Pins.ofWord t).transaction = some t := by
  have h := busWord_fields t
  cases hw : busW t <;> simpa [Pins.transaction, Pins.ofWord, hw] using h

/-- R102, R103: the clock edge that carries a word performs its transaction, the read port 0x00 or not valid before. -/
theorem takeTurn_ofWord (t : BitVec 14) (s : State) :
    takeTurn (.edge (Pins.ofWord t)) s = exec (decodeBus t) { s with rdata := if busW t then none else some 0x00 } := by
  cases hw : busW t <;> simp [takeTurn, edgeTurn, latchPort, hw]

theorem step_placeBusWord (t : BitVec 14) (s : State) :
    step (placeBusWord t s) = exec (decodeBus t) { s with rdata := if busW t then none else some 0x00 } :=
  (step_cons rfl).trans (takeTurn_ofWord t s)

/-! A micro-op word. -/

/-- R96: the engine's turn performs the micro-operation it fetches. -/
theorem engineTurn_of_fetch {s : State} {u : Byte} {i : Instr} (hf : fetchMicroOp s = some (.ok u))
    (hd : decodeUop u = .ok i) : engineTurn s = exec i s := by
  simp [engineTurn, hf, hd]

/-- R96: the micro-op fetched is the one at UPC of the running micro-program. -/
theorem fetchMicroOp_of_uprog {s : State} {ks : KeySize} {u : Byte} (hk : KeySize.ofCode s.ksz = some ks)
    (hu : (uprog s.phase ks.nr)[s.upc.toNat]? = some u) : fetchMicroOp s = some (.ok u) := by
  cases hp : s.phase with
  | idle => simp [uprog, hp] at hu
  | keyexp => simp [uprog, hp] at hu
  | enc => simp only [uprog, hp] at hu; simp [fetchMicroOp, hp, hk, hu]
  | dec => simp only [uprog, hp] at hu; simp [fetchMicroOp, hp, hk, hu]

/-- R94, R95: a micro-program has 4 Nr words at most. -/
theorem length_uprog_le (ph : Phase) (ks : KeySize) : (uprog ph ks.nr).length ≤ ks.programLen := by
  cases ph <;> cases ks <;> decide

theorem getElem?_of_findIdx? {words : List Byte} {u : Byte} {n : Nat} (h : words.findIdx? (· == u) = some n) :
    words[n]? = some u := by
  obtain ⟨hlt, heq, -⟩ := List.findIdx?_eq_some_iff_getElem.mp h
  exact List.getElem?_eq_some_iff.mpr ⟨hlt, beq_iff_eq.mp heq⟩

/-- The place that `findMicroOp` names holds the word, and UPC can hold the place. -/
theorem findMicroOp_some {ks : KeySize} {u : Byte} {ph : Phase} {n : Nat} (h : findMicroOp ks u = some (ph, n)) :
    (uprog ph ks.nr)[(BitVec.ofNat 6 n).toNat]? = some u := by
  have hget : (uprog ph ks.nr)[n]? = some u := by
    unfold findMicroOp at h
    split at h
    · next hn => cases h; exact getElem?_of_findIdx? hn
    · split at h
      · next hn => cases h; exact getElem?_of_findIdx? hn
      · cases h
  obtain ⟨hlt, -⟩ := List.getElem?_eq_some_iff.mp hget
  have hlen := length_uprog_le ph ks
  have hmax := ks.bounds
  rwa [BitVec.toNat_ofNat, Nat.mod_eq_of_lt (by omega)]

/-- R61: every round micro-operation stands in a micro-program of the 256-bit key size. -/
theorem findMicroOp_k256 {i : Instr} (h : isRoundOp i = true) :
    ∃ ph n, findMicroOp .k256 (BitVec.ofNat 8 (encode i)) = some (ph, n) := by
  have found : (findMicroOp .k256 (BitVec.ofNat 8 (encode i))).isSome = true := by
    cases i with
    | ark rnd => revert rnd; decide
    | sb => decide
    | isb => decide
    | sr => decide
    | isr => decide
    | mc => decide
    | imc => decide
    | _ => cases h
  obtain ⟨⟨ph, n⟩, hp⟩ := Option.isSome_iff_exists.mp found
  exact ⟨ph, n, hp⟩

theorem wf_of_uop {i : Instr} (h : i.format = .uop) : i.wf = true := by
  cases i with
  | kxw | ark | sb | isb | sr | isr | mc | imc => rfl
  | _ => cases h

/-- R61: the canonical word of a micro-operation, as a byte, decodes to it. -/
theorem decodeUop_encode {i : Instr} (h : i.format = .uop) : decodeUop (BitVec.ofNat 8 (encode i)) = .ok i := by
  have hdec := decodingAnEncodingGivesTheInstructionBack i (wf_of_uop h)
  rw [h, decode] at hdec
  split at hdec
  · exact hdec
  · cases hdec

theorem encode_ne_kxw {i : Instr} (h : isRoundOp i = true) : BitVec.ofNat 8 (encode i) ≠ 0x10 := by
  intro hw
  have hdec := decodeUop_encode (format_eq_uop.mpr (.inr h))
  rw [hw] at hdec
  cases hdec
  cases h

/-- With the engine's turn next, the step performs the micro-operation fetched. -/
theorem step_of_fetch {t : State} {rest : List Turn} {u : Byte} {i : Instr} (hs : t.sched = .engine :: rest)
    (hf : fetchMicroOp t = some (.ok u)) (hd : decodeUop u = .ok i) : step t = exec i { t with sched := rest } :=
  (step_cons hs).trans (engineTurn_of_fetch (s := { t with sched := rest }) hf hd)

/-- KXW is placed in PHASE KEYEXP, where it is the micro-op fetched (R83). -/
theorem placeMicroOp_kxw (s : State) : ∃ k z, placeMicroOp 0x10 s =
    { s with sched := .engine :: s.sched, phase := .keyexp, ki := k, ksz := z } := by
  unfold placeMicroOp
  rw [if_pos rfl]
  split
  · exact ⟨_, s.ksz, rfl⟩
  · exact ⟨_, _, rfl⟩

/-- A round micro-operation is placed where a micro-program of the key size left in KSZ holds it. -/
theorem placeMicroOp_roundOp {i : Instr} (h : isRoundOp i = true) (s : State) :
    ∃ ks z ph n, KeySize.ofCode z = some ks ∧ findMicroOp ks (BitVec.ofNat 8 (encode i)) = some (ph, n) ∧
      placeMicroOp (BitVec.ofNat 8 (encode i)) s =
        { s with sched := .engine :: s.sched, phase := ph, upc := BitVec.ofNat 6 n, ksz := z } := by
  unfold placeMicroOp
  rw [if_neg (encode_ne_kxw h)]
  split
  · next ph n hfound =>
    obtain ⟨ks, hk, hn⟩ := Option.bind_eq_some_iff.mp hfound
    exact ⟨ks, s.ksz, ph, n, hk, hn, rfl⟩
  · obtain ⟨ph, n, hn⟩ := findMicroOp_k256 h
    rw [hn]
    exact ⟨.k256, 0b10, ph, n, rfl, hn, rfl⟩

/-- A placed micro-op word is run by the next step. -/
theorem step_placeMicroOp {i : Instr} (h : i.format = .uop) (s : State) : ∃ ph u k z,
    step (placeMicroOp (BitVec.ofNat 8 (encode i)) s) = exec i { s with phase := ph, upc := u, ki := k, ksz := z } := by
  obtain rfl | hr := format_eq_uop.mp h
  · obtain ⟨k, z, hplace⟩ := placeMicroOp_kxw s
    refine ⟨.keyexp, s.upc, k, z, ?_⟩
    rw [show BitVec.ofNat 8 (encode .kxw) = 0x10 from rfl, hplace]
    exact step_of_fetch (u := 0x10) rfl rfl rfl
  · obtain ⟨ks, z, ph, n, hk, hn, hplace⟩ := placeMicroOp_roundOp hr s
    refine ⟨ph, BitVec.ofNat 6 n, s.ki, z, ?_⟩
    rw [hplace]
    exact step_of_fetch rfl (fetchMicroOp_of_uprog hk (findMicroOp_some hn)) (decodeUop_encode h)

/-- Settles O13: a transaction word runs at the clock edge placed for it, a micro-op word at the engine's turn. -/
theorem aPlacedWordIsRunByTheNextStep : Obligations.APlacedWordIsRunByTheNextStep := by
  refine ⟨fun s t => ?_, fun s i h => step_placeMicroOp h s⟩
  rw [State.withFetchWord, if_neg (by decide), BitVec.ofNat_toNat, BitVec.setWidth_eq]
  exact step_placeBusWord t s

end Sys2Proof.Machine
end

section
/-! Arithmetic in GF(2^8) (40_gf_arith R69 to R72). The double-and-add loop is linear in both operands, and every byte is
built from 0x01 by xtime and XOR (`byte_induction`), so a law of gmul is checked at 0x01 and carried over these two. -/

namespace Sys2Proof.Machine

/-! A word kept or dropped by one bit: the conditional XORs of xtime, gmul and polyMul. -/

/-- `x` if the bit is set, zero if not. -/
def keepIf {n : Nat} (c : Bool) (x : BitVec n) : BitVec n := if c then x else 0

@[simp] theorem keepIf_false {n : Nat} (x : BitVec n) : keepIf false x = 0#n := rfl

@[simp] theorem keepIf_true {n : Nat} (x : BitVec n) : keepIf true x = x := rfl

theorem ite_xor_eq_keepIf {n : Nat} (c : Bool) (acc x : BitVec n) :
    (if c then acc ^^^ x else acc) = acc ^^^ keepIf c x := by
  cases c
  · exact BitVec.xor_zero.symm
  · rfl

theorem keepIf_xor {n : Nat} (c : Bool) (x y : BitVec n) : keepIf c (x ^^^ y) = keepIf c x ^^^ keepIf c y := by
  cases c
  · exact BitVec.xor_zero.symm
  · rfl

theorem keepIf_shiftLeft {n : Nat} (c : Bool) (x : BitVec n) (k : Nat) : keepIf c x <<< k = keepIf c (x <<< k) := by
  cases c
  · exact BitVec.zero_shiftLeft k
  · rfl

theorem keepIf_zero {n : Nat} (c : Bool) : keepIf c 0#n = 0#n := ite_self _

theorem keepIf_bne {n : Nat} (c d : Bool) (x : BitVec n) : keepIf (c ^^ d) x = keepIf c x ^^^ keepIf d x := by
  cases c <;> cases d <;> simp

/-! xtime (R70). -/

theorem xtime_eq (p : Byte) : xtime p = (p <<< 1) ^^^ keepIf (p.getLsbD 7) 0x1B := rfl

theorem xtime_xor (p q : Byte) : xtime (p ^^^ q) = xtime p ^^^ xtime q := by
  simp only [xtime_eq, BitVec.shiftLeft_xor_distrib, BitVec.getLsbD_xor, keepIf_bne]
  ac_rfl

theorem xtime_keepIf (c : Bool) (p : Byte) : xtime (keepIf c p) = keepIf c (xtime p) := by
  cases c
  · exact (by decide : xtime 0x00 = 0x00)
  · rfl

theorem toNat_xtime (p : Byte) : (xtime p).toNat = (2 * p.toNat % 256) ^^^ (if 128 ≤ p.toNat then 0x1B else 0) := by
  have hbit : p.getLsbD 7 = decide (128 ≤ p.toNat) := BitVec.msb_eq_decide p
  rw [xtime_eq, BitVec.toNat_xor, BitVec.toNat_shiftLeft, Nat.shiftLeft_eq, Nat.mul_comm, hbit]
  by_cases h : 128 ≤ p.toNat <;> simp [h]

/-! The double-and-add loop (R71). -/

theorem gmulLoop_succ (b : Byte) (n k : Nat) (t acc : Byte) :
    gmulLoop b (n + 1) k t acc = gmulLoop b n (k + 1) (xtime t) (acc ^^^ keepIf (b.getLsbD k) t) := by
  rw [gmulLoop, ite_xor_eq_keepIf]

theorem gmulLoop_xor_left (b : Byte) (n k : Nat) (t u acc acc' : Byte) :
    gmulLoop b n k (t ^^^ u) (acc ^^^ acc') = gmulLoop b n k t acc ^^^ gmulLoop b n k u acc' := by
  induction n generalizing k t u acc acc' with
  | zero => rfl
  | succ n ih =>
    simp only [gmulLoop_succ, xtime_xor, ← ih, keepIf_xor]
    congr 1
    ac_rfl

theorem gmulLoop_xor_right (b c : Byte) (n k : Nat) (t acc acc' : Byte) :
    gmulLoop (b ^^^ c) n k t (acc ^^^ acc') = gmulLoop b n k t acc ^^^ gmulLoop c n k t acc' := by
  induction n generalizing k t acc acc' with
  | zero => rfl
  | succ n ih =>
    simp only [gmulLoop_succ, ← ih, BitVec.getLsbD_xor, keepIf_bne]
    congr 1
    ac_rfl

theorem gmulLoop_xtime (b : Byte) (n k : Nat) (t acc : Byte) :
    gmulLoop b n k (xtime t) (xtime acc) = xtime (gmulLoop b n k t acc) := by
  induction n generalizing k t acc with
  | zero => rfl
  | succ n ih => rw [gmulLoop_succ, ← xtime_keepIf, ← xtime_xor, ih, gmulLoop_succ]

/-- A set of bytes that xtime and XOR do not leave is not left by the loop. -/
theorem gmulLoop_mem {P : Byte → Prop} (hxtime : ∀ p, P p → P (xtime p)) (hxor : ∀ p q, P p → P q → P (p ^^^ q))
    (b : Byte) (n k : Nat) {t acc : Byte} (ht : P t) (hacc : P acc) : P (gmulLoop b n k t acc) := by
  induction n generalizing k t acc with
  | zero => exact hacc
  | succ n ih =>
    refine ih (k + 1) (hxtime t ht) ?_
    split
    · exact hxor acc t hacc ht
    · exact hacc

/-! The laws of gmul (R72). -/

theorem gmul_xor_left (a b c : Byte) : gmul (a ^^^ b) c = gmul a c ^^^ gmul b c :=
  gmulLoop_xor_left c 8 0 a b 0x00 0x00

theorem gmul_xor_right (a b c : Byte) : gmul a (b ^^^ c) = gmul a b ^^^ gmul a c :=
  gmulLoop_xor_right b c 8 0 a 0x00 0x00

theorem gmul_xtime_left (a b : Byte) : gmul (xtime a) b = xtime (gmul a b) := gmulLoop_xtime b 8 0 a 0x00

@[simp] theorem gmul_zero_right (a : Byte) : gmul a 0x00 = 0x00 := rfl

@[simp] theorem gmul_one_right (a : Byte) : gmul a 0x01 = a := BitVec.zero_xor

@[simp] theorem gmul_one_left (b : Byte) : gmul 0x01 b = b := by revert b; decide

/-- Every byte is a sum of powers of x. -/
theorem byte_induction {P : Byte → Prop} (one : P 0x01) (xtime : ∀ p, P p → P (xtime p))
    (xor : ∀ p q, P p → P q → P (p ^^^ q)) (b : Byte) : P b := by
  rw [← gmul_one_left b]
  exact gmulLoop_mem xtime xor b 8 0 one (xor 0x01 0x01 one one)

theorem gmul_xtime_right (a b : Byte) : gmul a (xtime b) = xtime (gmul a b) := by
  induction a using byte_induction with
  | one => rw [gmul_one_left, gmul_one_left]
  | xtime a ih => rw [gmul_xtime_left, ih, gmul_xtime_left]
  | xor a c iha ihc => rw [gmul_xor_left, iha, ihc, gmul_xor_left, xtime_xor]

theorem gmul_comm (a b : Byte) : gmul a b = gmul b a := by
  induction b using byte_induction with
  | one => rw [gmul_one_left, gmul_one_right]
  | xtime b ih => rw [gmul_xtime_right, ih, gmul_xtime_left]
  | xor b c ihb ihc => rw [gmul_xor_right, ihb, ihc, gmul_xor_left]

theorem gmul_assoc (a b c : Byte) : gmul (gmul a b) c = gmul a (gmul b c) := by
  induction c using byte_induction with
  | one => rw [gmul_one_right, gmul_one_right]
  | xtime c ih => rw [gmul_xtime_right, ih, gmul_xtime_right, gmul_xtime_right]
  | xor c d ihc ihd => rw [gmul_xor_right, ihc, ihd, gmul_xor_right, gmul_xor_right]

/-- `a ^ 16`. -/
def pow16 (a : Byte) : Byte := (fun p => gmul p p)^[4] a

/-- The fifteen nonzero bytes of the subfield of 16 elements. -/
def subfieldUnits : List Byte :=
  [0x01, 0x0c, 0x0d, 0x50, 0x51, 0x5c, 0x5d, 0xb0, 0xb1, 0xbc, 0xbd, 0xe0, 0xe1, 0xec, 0xed]

/-- `a ^ 17`, the norm of `a`, lies in the subfield: the one check over all bytes that the inverses need. -/
theorem gmul_pow16_mem_subfieldUnits {a : Byte} (h : a ≠ 0x00) : gmul a (pow16 a) ∈ subfieldUnits := by
  revert a; decide +kernel

theorem exists_inverse_of_mem_subfieldUnits {n : Byte} (h : n ∈ subfieldUnits) :
    ∃ m ∈ subfieldUnits, gmul n m = 0x01 := by
  revert n; decide +kernel

/-- A nonzero byte is inverted through its norm: `a * (a ^ 16 * m) = a ^ 17 * m = 1`. -/
theorem exists_gmul_eq_one {a : Byte} (h : a ≠ 0x00) : ∃ b, gmul a b = 0x01 := by
  obtain ⟨m, -, hm⟩ := exists_inverse_of_mem_subfieldUnits (gmul_pow16_mem_subfieldUnits h)
  exact ⟨gmul (pow16 a) m, by rw [← gmul_assoc, hm]⟩

theorem eq_of_gmul_eq_one {a b c : Byte} (hb : gmul a b = 0x01) (hc : gmul a c = 0x01) : b = c := by
  calc b = gmul b (gmul a c) := by rw [hc, gmul_one_right]
    _ = gmul (gmul a b) c := by rw [← gmul_assoc, gmul_comm b a]
    _ = c := by rw [hb, gmul_one_left]

/-- Settles O35: linearity in the second operand is the loop's, commutativity follows from it by `byte_induction`. -/
theorem gmulIsCommutativeAndDistributesOverXor : Obligations.GmulIsCommutativeAndDistributesOverXor :=
  ⟨gmul_comm, gmul_xor_right, gmul_zero_right, gmul_one_right⟩

/-- Settles O36: associativity by `byte_induction` on the third operand, inverses through the norm. -/
theorem gmulIsAssociativeWithUniqueInverses : Obligations.GmulIsAssociativeWithUniqueInverses := by
  refine ⟨gmul_assoc, fun a ha => ?_⟩
  obtain ⟨b, hb⟩ := exists_gmul_eq_one ha
  exact ⟨b, hb, fun c hc => eq_of_gmul_eq_one hc hb⟩

/-- Settles O33: the value by the definition of the shift, the product because 0x02 is xtime of 0x01. -/
theorem xtimeShiftsAndReduces : Obligations.XtimeShiftsAndReduces := by
  refine fun p => ⟨toNat_xtime p, ?_⟩
  calc xtime p = xtime (gmul 0x01 p) := by rw [gmul_one_left]
    _ = gmul (xtime 0x01) p := (gmul_xtime_left 0x01 p).symm

/-! Polynomial multiplication before reduction (R71). -/

/-- One row of the product: `a` shifted to bit `k`, if bit `k` of `b` is set. -/
def addRow (a : BitVec 16) (b : Byte) (acc : BitVec 16) (k : Nat) : BitVec 16 := acc ^^^ keepIf (b.getLsbD k) (a <<< k)

theorem polyMul_eq (a : BitVec 16) (b : Byte) : polyMul a b = (List.range' 0 8).foldl (addRow a b) 0 := by
  simp only [polyMul, ite_xor_eq_keepIf, List.range_eq_range']
  rfl

theorem foldl_addRow_xor (a : BitVec 16) (b c : Byte) (ks : List Nat) (acc acc' : BitVec 16) :
    ks.foldl (addRow a (b ^^^ c)) (acc ^^^ acc') = ks.foldl (addRow a b) acc ^^^ ks.foldl (addRow a c) acc' := by
  induction ks generalizing acc acc' with
  | nil => rfl
  | cons k ks ih =>
    simp only [List.foldl_cons, ← ih, addRow, BitVec.getLsbD_xor, keepIf_bne]
    congr 1
    ac_rfl

theorem polyMul_xor_right (a : BitVec 16) (b c : Byte) : polyMul a (b ^^^ c) = polyMul a b ^^^ polyMul a c := by
  simp only [polyMul_eq]
  exact foldl_addRow_xor a b c (List.range' 0 8) 0 0

/-! Congruence modulo the reduction polynomial. -/

/-- The polynomial `p` differs from the byte `r` by a multiple of 0x11B. -/
def CongruentTo (p : BitVec 16) (r : Byte) : Prop := ∃ q : Byte, p = r.setWidth 16 ^^^ polyMul 0x11B q

namespace CongruentTo

theorem setWidth (r : Byte) : CongruentTo (r.setWidth 16) r := ⟨0, BitVec.xor_zero.symm⟩

theorem xor {p p' : BitVec 16} {r r' : Byte} (h : CongruentTo p r) (h' : CongruentTo p' r') :
    CongruentTo (p ^^^ p') (r ^^^ r') := by
  obtain ⟨q, rfl⟩ := h
  obtain ⟨q', rfl⟩ := h'
  refine ⟨q ^^^ q', ?_⟩
  rw [polyMul_xor_right, BitVec.setWidth_xor]
  ac_rfl

theorem keepIf {p : BitVec 16} {r : Byte} (c : Bool) (h : CongruentTo p r) :
    CongruentTo (keepIf c p) (keepIf c r) := by
  cases c
  · exact setWidth 0
  · exact h

theorem reductionPolynomial_shiftLeft {k : Nat} (hk : k < 8) : CongruentTo ((0x11B : BitVec 16) <<< k) 0 := by
  have hrow : ∀ k < 8, (0x11B : BitVec 16) <<< k = polyMul 0x11B ((1 : Byte) <<< k) := by decide
  refine ⟨(1 : Byte) <<< k, (hrow k hk).trans ?_⟩
  exact BitVec.zero_xor.symm

end CongruentTo

/-- One doubling: the bit that xtime shifts out is exchanged for the reduction polynomial. -/
theorem setWidth_shiftLeft_one (a : Byte) :
    a.setWidth 16 <<< 1 = (xtime a).setWidth 16 ^^^ keepIf (a.getLsbD 7) 0x11B := by
  revert a; decide

theorem shiftLeft_congruentTo_iterate_xtime (a : Byte) {k : Nat} (hk : k ≤ 8) :
    CongruentTo (a.setWidth 16 <<< k) (xtime^[k] a) := by
  induction k generalizing a with
  | zero =>
    rw [BitVec.shiftLeft_zero]
    exact CongruentTo.setWidth a
  | succ k ih =>
    have hshift : a.setWidth 16 <<< (k + 1) =
        (xtime a).setWidth 16 <<< k ^^^ keepIf (a.getLsbD 7) ((0x11B : BitVec 16) <<< k) := by
      rw [Nat.add_comm, BitVec.shiftLeft_add, setWidth_shiftLeft_one, BitVec.shiftLeft_xor_distrib, keepIf_shiftLeft]
    have hcarry := (CongruentTo.reductionPolynomial_shiftLeft hk).keepIf (a.getLsbD 7)
    rw [hshift, Function.iterate_succ_apply]
    simpa [keepIf_zero] using (ih (xtime a) (Nat.le_of_succ_le hk)).xor hcarry

/-- The loop keeps its sum congruent to the sum of the rows it has read. -/
theorem foldl_addRow_congruentTo_gmulLoop (a b : Byte) {n k : Nat} (hk : k + n ≤ 8) {p : BitVec 16} {r : Byte}
    (h : CongruentTo p r) :
    CongruentTo ((List.range' k n).foldl (addRow (a.setWidth 16) b) p) (gmulLoop b n k (xtime^[k] a) r) := by
  induction n generalizing k p r with
  | zero => exact h
  | succ n ih =>
    rw [List.range'_succ, List.foldl_cons, gmulLoop_succ, ← Function.iterate_succ_apply' xtime k a]
    have hrow := (shiftLeft_congruentTo_iterate_xtime a (k := k) (by omega)).keepIf (b.getLsbD k)
    exact ih (by omega) (h.xor hrow)

/-- Settles O34: every row of the product is congruent to the byte the loop adds for it. -/
theorem gmulIsPolynomialMultiplicationModuloTheReductionPolynomial :
    Obligations.GmulIsPolynomialMultiplicationModuloTheReductionPolynomial := fun a b => by
  rw [polyMul_eq]
  exact foldl_addRow_congruentTo_gmulLoop a b (Nat.le_refl 8) (CongruentTo.setWidth 0)

end Sys2Proof.Machine
end

section
/-! The fixed tables (41_tables R75 to R79). The inverse S-box is checked against the S-box entry by entry; that both
are permutations follows by counting bytes, and the affine map of R77 is read off through the uniqueness of inverses. -/

namespace Sys2Proof.Machine

/-! The S-boxes as permutations (R75, R78). -/

/-- R78: the one check of the two tables against each other. -/
@[simp] theorem isbox_sbox (x : Byte) : isbox (sbox x) = x := by revert x; decide +kernel

theorem sbox_bijective : Function.Bijective sbox :=
  Finite.injective_iff_bijective.mp (Function.LeftInverse.injective isbox_sbox)

/-- A left inverse of a permutation is its right inverse. -/
@[simp] theorem sbox_isbox (y : Byte) : sbox (isbox y) = y := by
  obtain ⟨x, rfl⟩ := sbox_bijective.surjective y
  rw [isbox_sbox]

theorem isbox_bijective : Function.Bijective isbox :=
  Function.bijective_iff_has_inverse.mpr ⟨sbox, sbox_isbox, isbox_sbox⟩

/-- Settles O37: the tables are checked in one order, the other order and both bijections follow. -/
theorem sboxesAreInversePermutations : Obligations.SboxesAreInversePermutations :=
  ⟨isbox_sbox, sbox_isbox, sbox_bijective, isbox_bijective⟩

/-! The S-box by inversion and the affine map (R77). -/

/-- The affine map over GF(2) of R77. -/
def affineMap (b : Byte) : Byte :=
  b ^^^ b.rotateLeft 1 ^^^ b.rotateLeft 2 ^^^ b.rotateLeft 3 ^^^ b.rotateLeft 4 ^^^ 0x63

theorem isbox_affineMap_zero : isbox (affineMap 0x00) = 0x00 := by decide

/-- The inverse S-box undoes the affine map and then inverts: the one check of a table against the multiplier. -/
theorem gmul_isbox_affineMap {b : Byte} (hb : b ≠ 0x00) : gmul b (isbox (affineMap b)) = 0x01 := by
  revert b; decide +kernel

theorem ne_zero_of_gmul_eq_one {a b : Byte} (h : gmul a b = 0x01) : b ≠ 0x00 := by
  rintro rfl
  exact absurd ((gmul_zero_right a).symm.trans h) (by decide)

/-- The inverse S-box at the affine map of `x`'s inverse is `x`: both are inverses of the same byte. -/
theorem isbox_affineMap_of_inverse {x b : Byte} (hzero : x = 0x00 → b = 0x00)
    (hinv : x ≠ 0x00 → gmul x b = 0x01) :
    isbox (affineMap b) = x := by
  by_cases hx : x = 0x00
  · rw [hzero hx, hx, isbox_affineMap_zero]
  · have hxb : gmul x b = 0x01 := hinv hx
    exact eq_of_gmul_eq_one (gmul_isbox_affineMap (ne_zero_of_gmul_eq_one hxb)) ((gmul_comm b x).trans hxb)

/-- Settles O38: the inverse S-box takes the affine map of the inverse back to `x`. -/
theorem sboxIsTheAffineMapOfTheInverse : Obligations.SboxIsTheAffineMapOfTheInverse := fun x b hzero hinv =>
  calc sbox x = sbox (isbox (affineMap b)) := by rw [isbox_affineMap_of_inverse hzero hinv]
    _ = affineMap b := sbox_isbox (affineMap b)

/-! Rcon (R79). -/

/-- The entries of Rcon are the powers of x, counted from index 1. -/
theorem rc_succ_eq_iterate_xtime {n : Nat} (h : n < 10) : rc (n + 1) = xtime^[n] 0x01 := by
  revert n; decide

theorem rc_succ_eq_xtime {i : Nat} (hpos : 1 ≤ i) (h : i < 10) : rc (i + 1) = xtime (rc i) := by
  obtain ⟨n, rfl⟩ := Nat.exists_eq_add_of_le' hpos
  rw [rc_succ_eq_iterate_xtime h, rc_succ_eq_iterate_xtime (Nat.lt_of_succ_lt h), Function.iterate_succ_apply']

/-- Settles O39: the recurrence because the entries are iterates of xtime, the ends and the words by definition. -/
theorem rconIsThePowersOfTwo : Obligations.RconIsThePowersOfTwo :=
  ⟨rfl, rfl, fun _ => rc_succ_eq_xtime, rfl, fun _ _ => rfl⟩

end Sys2Proof.Machine
end

section
/-! The word functions of the key schedule (42_key_schedule R80, R81) and the word one KXW computes (R83), byte by
byte. -/

namespace Sys2Proof.Machine

@[simp] theorem byte_rotWord (w : Word) (j : Fin 4) : (rotWord w).byte j = w.byte (j + 1) := by
  match j with
  | 0 => rfl
  | 1 => rfl
  | 2 => rfl
  | 3 => rfl

@[simp] theorem byte_subWord (w : Word) (j : Fin 4) : (subWord w).byte j = sbox (w.byte j) := by
  match j with
  | 0 => rfl
  | 1 => rfl
  | 2 => rfl
  | 3 => rfl

/-- R79: the constant of an Rcon word is in its byte 0. -/
@[simp] theorem byte_rcon (i : Nat) (j : Fin 4) : (rcon i).byte j = if j = 0 then rc i else 0x00 := by
  match j with
  | 0 => rfl
  | 1 => rfl
  | 2 => rfl
  | 3 => rfl

/-- Settles O40: the rotation by definition, the substitution byte by byte. -/
theorem rotWordAndSubWordFollowTheirRules : Obligations.RotWordAndSubWordFollowTheirRules :=
  fun w => ⟨rfl, byte_subWord w⟩

/-- R6: only the 256-bit key size has the extra SubWord of R82. -/
theorem six_lt_nk_iff (ks : KeySize) : 6 < ks.nk ↔ ks.nk = 8 := by
  cases ks <;> decide

/-- R82, R83: byte `j` of `temp`, by the three cases of the rule. -/
theorem byte_scheduleTemp (ks : KeySize) (i : Nat) (prev : Word) (j : Fin 4) :
    (scheduleTemp ks.nk i prev).byte j =
      if i % ks.nk = 0 then sbox (prev.byte (j + 1)) ^^^ (if j = 0 then rc (i / ks.nk) else 0x00)
      else if ks.nk = 8 ∧ i % ks.nk = 4 then sbox (prev.byte j)
      else prev.byte j := by
  simp only [scheduleTemp, six_lt_nk_iff]
  by_cases hround : i % ks.nk = 0
  · rw [if_pos hround, if_pos hround, Word.byte_xor, byte_subWord, byte_rotWord, byte_rcon]
  by_cases hextra : ks.nk = 8 ∧ i % ks.nk = 4
  · rw [if_neg hround, if_neg hround, if_pos hextra, if_pos hextra, byte_subWord]
  · rw [if_neg hround, if_neg hround, if_neg hextra, if_neg hextra]

/-- R83, R84: in its range of KI, a KXW stores the word it computes, and completes with the last one. -/
theorem execKxw_of_range {s : State} {ks : KeySize} (hk : KeySize.ofCode s.ksz = some ks) (hlo : ks.nk ≤ s.ki.toNat)
    (hhi : s.ki.toNat < ks.scheduleLen) :
    execKxw s = .next (if s.ki.toNat + 1 = ks.scheduleLen
      then completeExpansion (storeScheduleWord (kxwWord ks s) s) else storeScheduleWord (kxwWord ks s) s) := by
  simp [execKxw, hk, hlo, hhi]

/-- Settles O26: the store is written at KI only, with a word whose bytes are those of the rule. -/
theorem kxwFollowsItsRule : Obligations.KxwFollowsItsRule := by
  refine ⟨rfl, fun s ks hk hlo hhi => ?_⟩
  have hb := ks.bounds
  have hki : s.ki.toNat < 60 := by rw [ks.scheduleLen_eq] at hb; omega
  have hread : ∀ i, wordAt (setWordAt s.W s.ki.toNat (kxwWord ks s)) i =
      if i = s.ki.toNat then kxwWord ks s else wordAt s.W i := fun i => wordAt_setWordAt _ _ i _ hki
  refine ⟨setWordAt s.W s.ki.toNat (kxwWord ks s), execKxw_of_range hk hlo hhi, toNat_add_one_of_lt (by omega),
    fun i _ hi => ?other, fun j => ?computed⟩
  case other => rw [hread, if_neg hi]
  case computed => rw [hread, if_pos rfl, kxwWord, scheduleWord, Word.byte_xor, byte_scheduleTemp]

end Sys2Proof.Machine
end

section
/-! The expansion of a key (42_key_schedule R82): the loop keeps the words it has, and each word it appends follows
from the words before it. -/

namespace Sys2Proof.Machine

/-- R82: each word of the list from index `nk` on follows from the word before it and the word `nk` before it. -/
def FollowsRecurrence (nk : Nat) (l : List Word) : Prop :=
  ∀ i prev back, nk ≤ i → i < l.length → l[i - 1]? = some prev → l[i - nk]? = some back →
    l[i]? = some (scheduleWord nk i prev back)

/-- R82: the word that the loop appends to the words computed so far. -/
def nextScheduleWord (nk : Nat) (l : List Word) : Word :=
  scheduleWord nk l.length (l.getD (l.length - 1) Word.zero) (l.getD (l.length - nk) Word.zero)

theorem expandLoop_succ (nk n : Nat) (l : List Word) :
    expandLoop nk (n + 1) l = expandLoop nk n (l ++ [nextScheduleWord nk l]) := rfl

theorem length_expandLoop (nk n : Nat) (l : List Word) : (expandLoop nk n l).length = l.length + n := by
  induction n generalizing l with
  | zero => rfl
  | succ n ih => rw [expandLoop_succ, ih, List.length_append, List.length_singleton]; omega

theorem prefix_expandLoop (nk n : Nat) (l : List Word) : l <+: expandLoop nk n l := by
  induction n generalizing l with
  | zero => exact List.prefix_rfl
  | succ n ih => exact (List.prefix_append l _).trans (ih _)

theorem FollowsRecurrence.append_next {nk : Nat} {l : List Word} (hnk : 0 < nk)
    (h : FollowsRecurrence nk l) : FollowsRecurrence nk (l ++ [nextScheduleWord nk l]) := by
  intro i prev back hlo hi hprev hback
  rw [List.length_append, List.length_singleton] at hi
  rw [List.getElem?_append_left (by omega)] at hprev hback
  rcases Nat.lt_succ_iff_lt_or_eq.mp hi with hlt | rfl
  · rw [List.getElem?_append_left hlt]
    exact h i prev back hlo hlt hprev hback
  · rw [List.getElem?_concat_length, nextScheduleWord, List.getD_eq_getElem?_getD, hprev,
      List.getD_eq_getElem?_getD, hback]
    rfl

theorem followsRecurrence_expandLoop {nk : Nat} (hnk : 0 < nk) (n : Nat) {l : List Word}
    (h : FollowsRecurrence nk l) : FollowsRecurrence nk (expandLoop nk n l) := by
  induction n generalizing l with
  | zero => exact h
  | succ n ih => exact ih (h.append_next hnk)

theorem length_keyWords (ks : KeySize) (k : Vector Byte 32) : ((List.range ks.nk).map (keyWord k)).length = ks.nk := by
  rw [List.length_map, List.length_range]

@[simp] theorem length_expand (ks : KeySize) (k : Vector Byte 32) : (expand ks k).length = ks.scheduleLen := by
  have hb := ks.bounds
  rw [expand, length_expandLoop, length_keyWords]
  omega

/-- R82: the first Nk words are the columns of the key. -/
theorem getElem?_expand_of_lt_nk (ks : KeySize) (k : Vector Byte 32) {i : Nat} (hi : i < ks.nk) :
    (expand ks k)[i]? = some (keyWord k i) := by
  have hkey : ((List.range ks.nk).map (keyWord k))[i]? = some (keyWord k i) := by
    rw [List.getElem?_map, List.getElem?_range hi, Option.map_some]
  obtain ⟨rest, hrest⟩ := prefix_expandLoop ks.nk (ks.scheduleLen - ks.nk) ((List.range ks.nk).map (keyWord k))
  rw [expand, ← hrest, List.getElem?_append_left (by rwa [length_keyWords]), hkey]

/-- R82: every later word follows from the words before it. -/
theorem followsRecurrence_expand (ks : KeySize) (k : Vector Byte 32) : FollowsRecurrence ks.nk (expand ks k) := by
  have hb := ks.bounds
  refine followsRecurrence_expandLoop (by omega) _ fun i _ _ hlo hhi => ?_
  rw [length_keyWords] at hhi
  omega

/-- Settles O43: the loop starts from the key columns and appends by the recurrence. -/
theorem expandFollowsTheKeyScheduleRecurrence : Obligations.ExpandFollowsTheKeyScheduleRecurrence :=
  fun ks k => ⟨length_expand ks k, fun _ hi => getElem?_expand_of_lt_nk ks k hi, fun i prev back hlo hhi =>
    followsRecurrence_expand ks k i prev back hlo (by rwa [length_expand])⟩

end Sys2Proof.Machine
end

section
/-! The engine's turn (44_cipher_engine R96), as the step that takes it. -/

namespace Sys2Proof.Machine

/-- The engine's turn comes from the schedule, or because nothing is scheduled (assumption 1). -/
theorem step_of_engine_next {s : State} {rest : List Turn}
    (h : s.sched = .engine :: rest ∨ (s.sched = [] ∧ rest = [])) : step s = engineTurn { s with sched := rest } := by
  rcases h with hs | ⟨hs, rfl⟩
  · exact step_cons hs
  · rw [← hs]
    exact step_nil hs

/-- R83: during KEYEXP the micro-op is KXW. -/
theorem fetchMicroOp_of_keyexp {s : State} (hp : s.phase = .keyexp) : fetchMicroOp s = some (.ok 0x10) := by
  simp only [fetchMicroOp, hp]

/-- R96: during ENC and DEC the micro-op is the one at UPC of the phase's micro-program. -/
theorem engineTurn_of_uprog {s : State} {ks : KeySize} {u : Byte} {i : Instr} (hk : KeySize.ofCode s.ksz = some ks)
    (hu : (uprog s.phase ks.nr)[s.upc.toNat]? = some u) (hd : decodeUop u = .ok i) : engineTurn s = exec i s :=
  engineTurn_of_fetch (fetchMicroOp_of_uprog hk hu) hd

/-- Settles O8: the engine's turn performs what it fetches, by the phase. -/
theorem anEngineTurnPerformsTheFetchedMicroOp : Obligations.AnEngineTurnPerformsTheFetchedMicroOp := by
  intro s rest hs
  rw [step_of_engine_next hs]
  refine ⟨fun hp => ?idle, fun hp => ?keyexp, fun ks u i hk hd => ⟨fun hp hu => ?enc, fun hp hu => ?dec⟩⟩
  case idle => exact takeTurn_engine_idle (s := { s with sched := rest }) hp
  case keyexp => exact engineTurn_of_fetch (u := 0x10) (fetchMicroOp_of_keyexp hp) rfl
  case enc => exact engineTurn_of_uprog (s := { s with sched := rest }) hk (by simpa [uprog, hp] using hu) hd
  case dec => exact engineTurn_of_uprog (s := { s with sched := rest }) hk (by simpa [uprog, hp] using hu) hd

end Sys2Proof.Machine
end

section
/-! Runs to the first idle state, and what no host step does to a running command (60_exceptions R125): the tools for
what a command has computed when it completes. -/

namespace Sys2Proof.Machine

theorem runsTo_zero_iff {s t : State} : RunsTo 0 s t ↔ s = t :=
  ⟨fun h => by cases h; rfl, fun h => by rw [h]; rfl⟩

theorem runsTo_succ_iff {n : Nat} {s t : State} : RunsTo (n + 1) s t ↔ ∃ u, step s = .next u ∧ RunsTo n u t := by
  refine ⟨fun h => ?_, fun ⟨u, hu, ht⟩ => runsTo_succ hu ht⟩
  simp only [RunsTo, Host.Core.run] at h
  split at h
  · next u hu => exact ⟨u, hu, h⟩
  · cases h
  · cases h

/-- What every step of a running command keeps, the first idle state still has. -/
theorem FirstIdle.induction {P : State → Prop}
    (hstep : ∀ {s t : State}, P s → s.phase ≠ .idle → step s = .next t → P t) {n : Nat} {s u : State}
    (h : FirstIdle n s u) (hs : P s) : P u := by
  induction n generalizing s with
  | zero =>
    obtain ⟨hrun, -⟩ := h
    exact runsTo_zero_iff.mp hrun ▸ hs
  | succ n ih =>
    obtain ⟨hrun, hidle, hbusy⟩ := h
    obtain ⟨t, ht, hrest⟩ := runsTo_succ_iff.mp hrun
    have hp := hbusy 0 s (Nat.succ_pos n) (runsTo_zero_iff.mpr rfl)
    exact ih ⟨hrest, hidle, fun m v hm hv => hbusy (m + 1) v (Nat.succ_lt_succ hm) (runsTo_succ ht hv)⟩
      (hstep hs hp ht)

theorem NoReset.tail {t : Turn} {ts : List Turn} (h : NoReset (t :: ts)) : NoReset ts :=
  fun p hp => h p (List.mem_cons_of_mem t hp)

/-- What a transaction may write while a command is running: the outcome, the two buffers, the port and the reads. -/
def SameRun (s t : State) : Prop :=
  t = { s with errcode := t.errcode, errinfo := t.errinfo, kbuf := t.kbuf, kcnt := t.kcnt, dbuf := t.dbuf,
               dcnt := t.dcnt, rdata := t.rdata, reads := t.reads }

/-- R125, R108, R109: a transaction leaves a running command alone. -/
theorem exec_sameRun_of_busy {i : Instr} {s t : State} (hp : s.phase ≠ .idle) (hi : i.format = .bus)
    (h : exec i s = .next t) : SameRun s t := by
  cases exec_next h with
  | keyexp c => rw [commandKeyexp, if_pos (busy_eq_true.mpr hp)]; rfl
  | encrypt => rw [commandCipher, if_pos (busy_eq_true.mpr hp)]; rfl
  | decrypt => rw [commandCipher, if_pos (busy_eq_true.mpr hp)]; rfl
  | cmdIllegal d => rw [commandIllegal_frame]; rfl
  | wrKeyin d => rfl
  | wrDin d => rfl
  | ignoredWrite a d => rfl
  | read d hr => rfl
  | kxw hk => cases hi
  | roundOp hr hs => cases hi.symm.trans (format_eq_uop.mpr (.inr hr))

/-- A clock edge without reset leaves a running command alone. -/
theorem edgeTurn_sameRun_of_busy {p : Pins} {s t : State} (hp : s.phase ≠ .idle) (hr : p.rst = false)
    (h : edgeTurn p s = .next t) : SameRun s t := by
  rcases edgeTurn_next h with ⟨hrst, -⟩ | ⟨-, -, rfl⟩ | ⟨w, -, -, hx⟩
  · cases hr.symm.trans hrst
  · rfl
  · exact exec_sameRun_of_busy (s := latchPort p s) hp (decodeBus_format w) hx

end Sys2Proof.Machine
end

section
/-! The run of an accepted KEYEXP (42_key_schedule R83 to R85): under every interleaving, the words of W below KI are
the expansion of the key that was pushed. -/

namespace Sys2Proof.Machine

/-- R85: words 0..n-1 of the store are those of the expansion of `k`. -/
def HoldsExpansion (ks : KeySize) (k : Vector Byte 32) (w : Vector Word 60) (n : Nat) : Prop :=
  ∀ i, i < n → (expand ks k)[i]? = some (wordAt w i)

/-- R104: the key columns, loaded, are the first words of the expansion. -/
theorem holdsExpansion_loadKeyWords (ks : KeySize) (k : Vector Byte 32) (w : Vector Word 60) :
    HoldsExpansion ks k (loadKeyWords ks.nk k w) ks.nk := fun i hi => by
  have hb := ks.bounds
  rw [wordAt_loadKeyWords _ _ _ (by omega), if_pos hi, getElem?_expand_of_lt_nk ks k hi]

/-- R83: the word computed from two words of the expansion is the next one. -/
theorem HoldsExpansion.extend {ks : KeySize} {k : Vector Byte 32} {w : Vector Word 60} {n : Nat}
    (h : HoldsExpansion ks k w n) (hlo : ks.nk ≤ n) (hhi : n < ks.scheduleLen) :
    HoldsExpansion ks k (setWordAt w n (scheduleWord ks.nk n (wordAt w (n - 1)) (wordAt w (n - ks.nk)))) (n + 1) := by
  intro i hi
  have hb := ks.bounds
  rw [wordAt_setWordAt _ _ _ _ (by omega)]
  split
  · next heq =>
    rw [heq]
    exact followsRecurrence_expand ks k n _ _ hlo (by rwa [length_expand]) (h (n - 1) (by omega))
      (h (n - ks.nk) (by omega))
  · exact h i (by omega)

/-- R85: a store that holds all words of the expansion begins with it. -/
theorem HoldsExpansion.take_eq {ks : KeySize} {k : Vector Byte 32} {w : Vector Word 60}
    (h : HoldsExpansion ks k w ks.scheduleLen) : w.toList.take ks.scheduleLen = expand ks k := by
  have hb := ks.bounds
  refine List.ext_getElem? fun i => ?_
  by_cases hi : i < ks.scheduleLen
  · rw [List.getElem?_take_of_lt hi, h i hi, wordAt_of_lt w (by omega)]
    simp
  · rw [List.getElem?_eq_none (by simp; omega), List.getElem?_eq_none (by simp; omega)]

/-- What every step of an accepted KEYEXP of key `k` keeps: no reset is scheduled, and W holds the expansion up to KI,
which is within its range while the command runs and at its end when the engine is idle again. -/
structure ExpansionRun (c : BitVec 2) (ks : KeySize) (k : Vector Byte 32) (s : State) : Prop where
  noReset : NoReset s.sched
  ksz : s.ksz = c
  started : ks.nk ≤ s.ki.toNat
  holds : HoldsExpansion ks k s.W s.ki.toNat
  progress : (s.phase = .keyexp ∧ s.ki.toNat < ks.scheduleLen) ∨
    (s.phase = .idle ∧ s.keyReady = true ∧ s.ki.toNat = ks.scheduleLen)

/-- R104: an accepted KEYEXP loads the key columns and starts at the first word to compute. -/
theorem commandKeyexp_of_accepted {c : BitVec 2} {ks : KeySize} {s : State} (hp : s.phase = .idle)
    (hc : KeySize.ofCode c = some ks) (hn : s.kcnt.toNat = 4 * ks.nk) :
    commandKeyexp c s = report .ok 0x00 (consumeKey (startExpansion c ks.nk s)) := by
  simp [commandKeyexp, busy_eq_false.mpr hp, hc, hn]

theorem expansionRun_of_accepted {c : BitVec 2} {ks : KeySize} {s : State} (hp : s.phase = .idle)
    (hc : KeySize.ofCode c = some ks) (hn : s.kcnt.toNat = 4 * ks.nk) (hs : NoReset s.sched) :
    ExpansionRun c ks s.kbuf (commandKeyexp c s) := by
  have hki := toNat_ofNat_nk ks
  have hb := ks.bounds
  rw [commandKeyexp_of_accepted hp hc hn]
  exact
    { noReset := hs
      ksz := rfl
      started := hki.ge
      holds := show HoldsExpansion ks s.kbuf (loadKeyWords ks.nk s.kbuf s.W) (BitVec.ofNat 6 ks.nk).toNat from
        hki.symm ▸ holdsExpansion_loadKeyWords ks s.kbuf s.W
      progress := .inl ⟨rfl, hki.trans_lt (by omega)⟩ }

namespace ExpansionRun

variable {c : BitVec 2} {ks : KeySize} {k : Vector Byte 32} {s t : State}

theorem withSched (h : ExpansionRun c ks k s) {ts : List Turn} (hts : NoReset ts) :
    ExpansionRun c ks k { s with sched := ts } := { h with noReset := hts }

theorem sameRun (h : ExpansionRun c ks k s) (hst : SameRun s t) : ExpansionRun c ks k t := by
  rw [hst]
  exact { h with }

theorem phase_of_busy (h : ExpansionRun c ks k s) (hb : s.phase ≠ .idle) : s.phase = .keyexp := by
  obtain ⟨hp, -⟩ | ⟨hp, -, -⟩ := h.progress
  · exact hp
  · exact absurd hp hb

/-- R83, R84: a KXW stores the next word of the expansion, and completes with the last one. -/
theorem execKxw (h : ExpansionRun c ks k s) (hc : KeySize.ofCode c = some ks) (hp : s.phase = .keyexp)
    (he : execKxw s = .next t) : ExpansionRun c ks k t := by
  obtain ⟨ks', hks', hlo, hhi, hcase⟩ := execKxw_next he
  rw [h.ksz, hc] at hks'
  cases hks'
  have hb := ks.bounds
  have hki : (s.ki + 1).toNat = s.ki.toNat + 1 := toNat_add_one_of_lt (by omega)
  have hstarted : ks.nk ≤ (s.ki + 1).toNat := by omega
  have hholds : HoldsExpansion ks k (setWordAt s.W s.ki.toNat (kxwWord ks s)) (s.ki + 1).toNat :=
    hki ▸ h.holds.extend hlo hhi
  rcases hcase with ⟨hlast, rfl⟩ | ⟨hmore, rfl⟩
  · exact { h with
      started := hstarted
      holds := hholds
      progress := .inr ⟨rfl, rfl, hki.trans hlast⟩ }
  · exact { h with
      started := hstarted
      holds := hholds
      progress := .inl ⟨hp, show (s.ki + 1).toNat < ks.scheduleLen by omega⟩ }

theorem engineTurn (h : ExpansionRun c ks k s) (hc : KeySize.ofCode c = some ks) (hb : s.phase ≠ .idle)
    (he : engineTurn s = .next t) : ExpansionRun c ks k t := by
  have hp := h.phase_of_busy hb
  rw [engineTurn_of_fetch (fetchMicroOp_of_keyexp hp) (i := .kxw) rfl] at he
  exact h.execKxw hc hp he

/-- R53, R85: whatever turn a step takes, the run goes on. -/
theorem step (h : ExpansionRun c ks k s) (hc : KeySize.ofCode c = some ks) (hb : s.phase ≠ .idle)
    (he : step s = .next t) : ExpansionRun c ks k t := by
  rcases step_next he with ⟨-, ht⟩ | ⟨rest, hs, ht⟩ | ⟨p, rest, hs, ht⟩
  · exact h.engineTurn hc hb ht
  · have hnr : NoReset (.engine :: rest) := hs ▸ h.noReset
    exact (h.withSched hnr.tail).engineTurn hc hb ht
  · have hnr : NoReset (.edge p :: rest) := hs ▸ h.noReset
    have hrst : p.rst = false := hnr p List.mem_cons_self
    exact (h.withSched hnr.tail).sameRun (edgeTurn_sameRun_of_busy hb hrst ht)

end ExpansionRun

/-- Settles O58: an accepted KEYEXP begins an `ExpansionRun`, which every step of it keeps to the first idle state. -/
theorem aCompletedKeyexpHoldsTheExpansionOfItsKey : Obligations.ACompletedKeyexpHoldsTheExpansionOfItsKey := by
  intro c ks s t u n hp hc hn hs hexec hidle
  cases hexec
  have ⟨_, huidle, _⟩ := hidle
  have hrun : ExpansionRun c ks s.kbuf u := FirstIdle.induction
    (fun h hb he => h.step hc hb he) hidle (expansionRun_of_accepted hp hc hn hs)
  obtain ⟨-, hready, hki⟩ : u.phase = .idle ∧ u.keyReady = true ∧ u.ki.toNat = ks.scheduleLen :=
    hrun.progress.resolve_left fun ⟨hk, _⟩ => by cases huidle.symm.trans hk
  exact ⟨hready, hrun.ksz, (hki ▸ hrun.holds).take_eq⟩

end Sys2Proof.Machine
end

section
/-! The round transformations entry by entry (43_round_transforms R86 to R92), and the laws by which each undoes its
inverse (R93). MC and IMC are one operation, the product of every column with a matrix (`mulColumns`), whose two
matrices are inverse to each other. -/

namespace Sys2Proof.Machine

/-! The entries (R86 to R89, R92). -/

@[simp] theorem get_subBytes (m : Mat) (r c : Fin 4) : (subBytes m).get r c = sbox (m.get r c) := Mat.get_ofFn _ r c

@[simp] theorem get_invSubBytes (m : Mat) (r c : Fin 4) : (invSubBytes m).get r c = isbox (m.get r c) :=
  Mat.get_ofFn _ r c

@[simp] theorem get_shiftRows (m : Mat) (r c : Fin 4) : (shiftRows m).get r c = m.get r (c + r) := Mat.get_ofFn _ r c

@[simp] theorem get_invShiftRows (m : Mat) (r c : Fin 4) : (invShiftRows m).get r c = m.get r (c - r) :=
  Mat.get_ofFn _ r c

@[simp] theorem get_addRoundKey (w : Vector Word 60) (rnd : Nat) (m : Mat) (r c : Fin 4) :
    (addRoundKey w rnd m).get r c = m.get r c ^^^ (wordAt w (4 * rnd + c.val)).byte r := Mat.get_ofFn _ r c

/-! The product with a matrix, given by its rows (R90, R91). -/

/-- Every column of `m` multiplied by the matrix of the given rows. -/
def mulColumns (rows : Fin 4 → Word) (m : Mat) : Mat := Mat.ofFn fun r c => dot (rows r) (m.col c)

theorem mixColumns_eq (m : Mat) : mixColumns m = mulColumns mixRow m := rfl

theorem invMixColumns_eq (m : Mat) : invMixColumns m = mulColumns invMixRow m := rfl

theorem get_mulColumns (rows : Fin 4 → Word) (m : Mat) (r c : Fin 4) :
    (mulColumns rows m).get r c = dot (rows r) (m.col c) := Mat.get_ofFn _ r c

theorem col_mulColumns (rows : Fin 4 → Word) (m : Mat) (c : Fin 4) :
    (mulColumns rows m).col c = Word.ofFn fun k => dot (rows k) (m.col c) :=
  Word.ext_byte fun r => by rw [Mat.byte_col, get_mulColumns, Word.byte_ofFn]

/-- A row times a matrix: its entry `j` is the row times column `j`. -/
def mulRow (row : Word) (rows : Fin 4 → Word) : Word := Word.ofFn fun j => dot row (Word.ofFn fun k => (rows k).byte j)

/-- Row `r` of the identity matrix. -/
def unitRow : Fin 4 → Word
  | 0 => ⟨0x01, 0x00, 0x00, 0x00⟩
  | 1 => ⟨0x00, 0x01, 0x00, 0x00⟩
  | 2 => ⟨0x00, 0x00, 0x01, 0x00⟩
  | 3 => ⟨0x00, 0x00, 0x00, 0x01⟩

/-- Matrix products associate: the field's product is associative and distributes over XOR. -/
theorem dot_mulRow (row : Word) (rows : Fin 4 → Word) (w : Word) :
    dot (mulRow row rows) w = dot row (Word.ofFn fun k => dot (rows k) w) := by
  simp only [dot, mulRow, Word.ofFn, Word.byte, gmul_xor_left, gmul_xor_right, gmul_assoc]
  ac_rfl

theorem gmul_zero_left (b : Byte) : gmul 0x00 b = 0#8 := (gmul_comm 0x00 b).trans (gmul_zero_right b)

theorem dot_unitRow (r : Fin 4) (w : Word) : dot (unitRow r) w = w.byte r := by
  match r with
  | 0 | 1 | 2 | 3 =>
    simp only [dot, unitRow, Word.byte, gmul_one_left, gmul_zero_left, BitVec.zero_xor, BitVec.xor_zero]

/-- A matrix undoes another when their product is the identity. -/
theorem mulColumns_cancel {rows rows' : Fin 4 → Word} (h : ∀ r, mulRow (rows r) rows' = unitRow r) (m : Mat) :
    mulColumns rows (mulColumns rows' m) = m :=
  Mat.ext_get fun r c =>
    calc (mulColumns rows (mulColumns rows' m)).get r c
      _ = dot (rows r) (Word.ofFn fun k => dot (rows' k) (m.col c)) := by rw [get_mulColumns, col_mulColumns]
      _ = dot (unitRow r) (m.col c) := by rw [← dot_mulRow, h]
      _ = m.get r c := dot_unitRow r (m.col c)

/-! The laws of R93. -/

@[simp] theorem invSubBytes_subBytes (m : Mat) : invSubBytes (subBytes m) = m :=
  Mat.ext_get fun r c => by rw [get_invSubBytes, get_subBytes, isbox_sbox]

@[simp] theorem subBytes_invSubBytes (m : Mat) : subBytes (invSubBytes m) = m :=
  Mat.ext_get fun r c => by rw [get_subBytes, get_invSubBytes, sbox_isbox]

@[simp] theorem invShiftRows_shiftRows (m : Mat) : invShiftRows (shiftRows m) = m :=
  Mat.ext_get fun r c => by rw [get_invShiftRows, get_shiftRows, sub_add_cancel]

@[simp] theorem shiftRows_invShiftRows (m : Mat) : shiftRows (invShiftRows m) = m :=
  Mat.ext_get fun r c => by rw [get_shiftRows, get_invShiftRows, add_sub_cancel_right]

theorem mulRow_invMixRow_mixRow (r : Fin 4) : mulRow (invMixRow r) mixRow = unitRow r := by revert r; decide

theorem mulRow_mixRow_invMixRow (r : Fin 4) : mulRow (mixRow r) invMixRow = unitRow r := by revert r; decide

@[simp] theorem invMixColumns_mixColumns (m : Mat) : invMixColumns (mixColumns m) = m := by
  rw [invMixColumns_eq, mixColumns_eq, mulColumns_cancel mulRow_invMixRow_mixRow]

@[simp] theorem mixColumns_invMixColumns (m : Mat) : mixColumns (invMixColumns m) = m := by
  rw [mixColumns_eq, invMixColumns_eq, mulColumns_cancel mulRow_mixRow_invMixRow]

@[simp] theorem addRoundKey_addRoundKey (w : Vector Word 60) (rnd : Nat) (m : Mat) :
    addRoundKey w rnd (addRoundKey w rnd m) = m :=
  Mat.ext_get fun r c => by rw [get_addRoundKey, get_addRoundKey, BitVec.xor_assoc, BitVec.xor_self, BitVec.xor_zero]

/-- Settles O42: the tables, the column shifts, the two matrices and the XOR each cancel, entry by entry. -/
theorem roundTransformationsUndoTheirInverses : Obligations.RoundTransformationsUndoTheirInverses := fun m =>
  ⟨invSubBytes_subBytes m, subBytes_invSubBytes m, invShiftRows_shiftRows m, shiftRows_invShiftRows m,
    invMixColumns_mixColumns m, mixColumns_invMixColumns m, fun w rnd => addRoundKey_addRoundKey w rnd m⟩

end Sys2Proof.Machine
end

section
/-! The round micro-operations before the last of a micro-program (43_round_transforms R86 to R92, 44_cipher_engine
R96). -/

namespace Sys2Proof.Machine

/-- R96: a round micro-operation that is not the last stores its effect on S and advances UPC. -/
theorem exec_roundOp_of_ne_last {i : Instr} (hi : isRoundOp i = true) {s : State} {ks : KeySize}
    (hk : KeySize.ofCode s.ksz = some ks) (hl : s.upc.toNat + 1 ≠ ks.programLen) :
    exec i s = .next (advance (applyMicroOp s.W s.S i) s) := by
  simp [exec_roundOp hi, engineStep, hk, hl]

/-- Settles O27: both store S with its bytes put through their table. -/
theorem subBytesFollowsItsRule : Obligations.SubBytesFollowsItsRule :=
  ⟨rfl, rfl, fun s _ hk hl =>
    ⟨⟨_, exec_roundOp_of_ne_last (i := .sb) rfl hk hl, get_subBytes s.S⟩,
      ⟨_, exec_roundOp_of_ne_last (i := .isb) rfl hk hl, get_invSubBytes s.S⟩⟩⟩

/-- Settles O28: the column the rule reads is the sum, or difference, of column and row number in `Fin 4`. -/
theorem shiftRowsFollowsItsRule : Obligations.ShiftRowsFollowsItsRule := by
  refine ⟨rfl, rfl, fun s ks hk hl =>
    ⟨⟨shiftRows s.S, exec_roundOp_of_ne_last (i := .sr) rfl hk hl, fun r c k hcol => ?left⟩,
      ⟨invShiftRows s.S, exec_roundOp_of_ne_last (i := .isr) rfl hk hl, fun r c k hcol => ?right⟩⟩⟩
  case left =>
    have hsum : c + r = k := Fin.ext (by rw [Fin.val_add, hcol])
    rw [get_shiftRows, hsum]
  case right =>
    have hdiff : c - r = k := Fin.ext (by rw [Fin.val_sub, hcol]; omega)
    rw [get_invShiftRows, hdiff]

/-- Settles O29: every entry is the product of its matrix row with the column, the coefficients by definition. -/
theorem mixColumnsFollowsItsRule : Obligations.MixColumnsFollowsItsRule := by
  refine ⟨rfl, rfl, fun s ks hk hl =>
    ⟨⟨mixColumns s.S, exec_roundOp_of_ne_last (i := .mc) rfl hk hl, fun c => ?forward⟩,
      ⟨invMixColumns s.S, exec_roundOp_of_ne_last (i := .imc) rfl hk hl, fun c => ?inverse⟩⟩⟩
  case forward =>
    have hrow := fun r => get_mulColumns mixRow s.S r c
    exact ⟨hrow 0, hrow 1, hrow 2, hrow 3⟩
  case inverse =>
    have hrow := fun r => get_mulColumns invMixRow s.S r c
    exact ⟨hrow 0, hrow 1, hrow 2, hrow 3⟩

/-- Settles O30: the schedule word of the column lies within the store, so the model's total read is that word. -/
theorem addRoundKeyFollowsItsRule : Obligations.AddRoundKeyFollowsItsRule := by
  refine ⟨by decide, fun rnd s ks hk hl =>
    ⟨addRoundKey s.W rnd.val s.S, exec_roundOp_of_ne_last (i := .ark rnd) rfl hk hl, fun r c h => ?_⟩⟩
  rw [get_addRoundKey, wordAt_of_lt s.W h]

end Sys2Proof.Machine
end

section
/-! The last micro-operation of a micro-program (44_cipher_engine R97). -/

namespace Sys2Proof.Machine

/-- R97: a round micro-operation that is the last completes the command with its effect on S. -/
theorem exec_roundOp_of_last {i : Instr} (hi : isRoundOp i = true) {s : State} {ks : KeySize}
    (hk : KeySize.ofCode s.ksz = some ks) (hl : s.upc.toNat + 1 = ks.programLen) :
    exec i s = .next (completeCipher (applyMicroOp s.W s.S i) s) := by
  simp [exec_roundOp hi, engineStep, hk, hl]

/-- Settles O31: the State serialized into OUT is the one the micro-operation stores at UPC 0, which is not the last. -/
theorem theLastMicroOpCompletesTheCommand : Obligations.TheLastMicroOpCompletesTheCommand := by
  intro i s ks hi hk hl
  have hb := ks.bounds
  have hfirst : (0#6).toNat + 1 ≠ ks.programLen := by
    rw [ks.programLen_eq, BitVec.toNat_zero]
    omega
  exact ⟨applyMicroOp s.W s.S i, storeMat (applyMicroOp s.W s.S i),
    exec_roundOp_of_ne_last hi (s := { s with upc := 0 }) hk hfirst,
    exec_roundOp_of_last hi hk hl,
    byteAt_storeMat_get _⟩

end Sys2Proof.Machine
end

section
/-! The rounds of Cipher and InvCipher (44_cipher_engine R99, R100), and that the decryption undoes the encryption round
by round (R101). -/

namespace Sys2Proof.Machine

/-- R99: one full round of the encryption. -/
def cipherRound (w : Vector Word 60) (rnd : Nat) (m : Mat) : Mat :=
  addRoundKey w rnd (mixColumns (shiftRows (subBytes m)))

/-- R100: one full round of the decryption. -/
def invCipherRound (w : Vector Word 60) (rnd : Nat) (m : Mat) : Mat :=
  invSubBytes (invShiftRows (invMixColumns (addRoundKey w rnd m)))

/-- R99: the State after the initial key addition and rounds 1 to Nr - 1. -/
def cipherRounds (w : Vector Word 60) (nr : Nat) (m : Mat) : Mat :=
  (List.range (nr - 1)).foldl (fun m k => cipherRound w (k + 1) m) (addRoundKey w 0 m)

/-- R100: rounds Nr - 1 down to 1. -/
def invCipherRounds (w : Vector Word 60) (nr : Nat) (m : Mat) : Mat :=
  (List.range (nr - 1)).foldl (fun m k => invCipherRound w (nr - 1 - k) m) m

theorem cipher_eq (w : Vector Word 60) (nr : Nat) (b : Vector Byte 16) :
    cipher w nr b = storeMat (addRoundKey w nr (shiftRows (subBytes (cipherRounds w nr (loadMat b))))) := rfl

theorem invCipher_eq (w : Vector Word 60) (nr : Nat) (b : Vector Byte 16) :
    invCipher w nr b = storeMat (addRoundKey w 0 (invCipherRounds w nr
      (invSubBytes (invShiftRows (addRoundKey w nr (loadMat b)))))) := rfl

theorem invCipherRound_cipherRound (w : Vector Word 60) (rnd : Nat) (m : Mat) :
    invCipherRound w rnd (cipherRound w rnd m) = m := by
  simp [invCipherRound, cipherRound]

/-- Operations 1 to `n`, then their inverses from `n` down to 1, lead back. -/
theorem foldl_range_undo {α : Type} {f g : Nat → α → α} (h : ∀ r a, g r (f r a) = a) (n : Nat) (a : α) :
    (List.range n).foldl (fun x k => g (n - k) x) ((List.range n).foldl (fun x k => f (k + 1) x) a) = a := by
  induction n with
  | zero => rfl
  | succ n ih =>
    rw [List.range_succ_eq_map, List.foldl_cons, List.foldl_map, ← List.range_succ_eq_map, List.range_succ,
      List.foldl_append]
    simpa [h] using ih

theorem invCipherRounds_cipherRounds (w : Vector Word 60) (nr : Nat) (m : Mat) :
    invCipherRounds w nr (cipherRounds w nr m) = addRoundKey w 0 m :=
  foldl_range_undo (invCipherRound_cipherRound w) (nr - 1) (addRoundKey w 0 m)

/-- Settles O45: the final rounds cancel, then the full rounds from the innermost out, then the first key addition. -/
theorem decryptionUndoesEncryption : Obligations.DecryptionUndoesEncryption := by
  intro w nr b
  rw [invCipher_eq, cipher_eq, loadMat_storeMat, addRoundKey_addRoundKey, invShiftRows_shiftRows,
    invSubBytes_subBytes, invCipherRounds_cipherRounds, addRoundKey_addRoundKey, storeMat_loadMat]

end Sys2Proof.Machine
end

section
/-! The micro-programs index by index (44_cipher_engine R94, R95): both are a few words around rounds of four words. -/

namespace Sys2Proof.Machine

section
variable {α : Type} {f : Nat → List α}

theorem length_flatMap_range (hf : ∀ k, (f k).length = 4) (n : Nat) :
    ((List.range n).flatMap f).length = 4 * n := by
  simp [List.length_flatMap, hf, mul_comm]

/-- Word `j` of round `k` in a sequence of `n` rounds of four words. -/
theorem getElem?_flatMap_range (hf : ∀ k, (f k).length = 4) {n k j : Nat} (hk : k < n) (hj : j < 4) :
    ((List.range n).flatMap f)[4 * k + j]? = (f k)[j]? := by
  induction n with
  | zero => omega
  | succ n ih =>
    have hlen := length_flatMap_range hf n
    rw [List.range_succ, List.flatMap_append, List.flatMap_singleton]
    rcases Nat.lt_succ_iff_lt_or_eq.mp hk with hlt | rfl
    · rw [List.getElem?_append_left (by omega), ih hlt]
    · rw [List.getElem?_append_right (by omega), hlen, Nat.add_sub_cancel_left]

end

/-- R61: the word of ARK, KIND 2 above the round number. -/
theorem arkWord_eq {rnd : Nat} (h : rnd < 16) : arkWord rnd = 0x20 ||| BitVec.ofNat 8 rnd := by
  have key : ∀ r : Fin 16, arkWord r.val = 0x20 ||| BitVec.ofNat 8 r.val := by decide
  exact key ⟨rnd, h⟩

theorem length_encRounds (n : Nat) : ((List.range n).flatMap fun k => encRound (k + 1)).length = 4 * n :=
  length_flatMap_range (fun _ => rfl) n

theorem length_decRounds (nr n : Nat) : ((List.range n).flatMap fun k => decRound (nr - 1 - k)).length = 4 * n :=
  length_flatMap_range (fun _ => rfl) n

theorem length_uprogEnc {nr : Nat} (h : 1 ≤ nr) : (uprogEnc nr).length = 4 * nr := by
  rw [uprogEnc, List.length_append, List.length_append, length_encRounds]
  simp only [List.length_cons, List.length_nil]
  omega

theorem length_uprogDec {nr : Nat} (h : 1 ≤ nr) : (uprogDec nr).length = 4 * nr := by
  rw [uprogDec, List.length_append, List.length_append, length_decRounds]
  simp only [List.length_cons, List.length_nil]
  omega

/-- R94: word `j` of round `r` of the encryption. -/
theorem getElem?_uprogEnc_round {nr r j i : Nat} (hr : 1 ≤ r) (hlt : r < nr) (hj : j < 4) (hi : i + 3 = 4 * r + j) :
    (uprogEnc nr)[i]? = (encRound r)[j]? := by
  have hlen := length_encRounds (nr - 1)
  have hround : i - 1 = 4 * (r - 1) + j := by omega
  rw [uprogEnc, List.append_assoc, List.getElem?_append_right (by simp; omega), List.length_singleton,
    List.getElem?_append_left (by omega), hround, getElem?_flatMap_range (fun _ => rfl) (by omega) hj,
    Nat.sub_add_cancel hr]

/-- R94: the final round of the encryption, which has no MC. -/
theorem getElem?_uprogEnc_last {nr j i : Nat} (h : 1 ≤ nr) (hi : i + 3 = 4 * nr + j) :
    (uprogEnc nr)[i]? = [0x30, 0x50, arkWord nr][j]? := by
  have hlen := length_encRounds (nr - 1)
  have hplace : i - (1 + 4 * (nr - 1)) = j := by omega
  rw [uprogEnc, List.getElem?_append_right (by simp [hlen]; omega), List.length_append, List.length_singleton, hlen,
    hplace]

/-- R95: word `k` of round `nr - j` of the decryption. -/
theorem getElem?_uprogDec_round {nr j k i : Nat} (hj : 1 ≤ j) (hlt : j < nr) (hk : k < 4) (hi : i + 1 = 4 * j + k) :
    (uprogDec nr)[i]? = (decRound (nr - j))[k]? := by
  have hlen := length_decRounds nr (nr - 1)
  have hround : i - 3 = 4 * (j - 1) + k := by omega
  have hrnd : nr - 1 - (j - 1) = nr - j := by omega
  rw [uprogDec, List.append_assoc, List.getElem?_append_right (by simp; omega)]
  simp only [List.length_cons, List.length_nil]
  rw [List.getElem?_append_left (by omega), hround, getElem?_flatMap_range (fun _ => rfl) (by omega) hk, hrnd]

/-- R95: the decryption ends with the key addition of round 0. -/
theorem getElem?_uprogDec_last {nr : Nat} (h : 1 ≤ nr) : (uprogDec nr)[4 * nr - 1]? = some (arkWord 0) := by
  have hlen := length_uprogDec h
  rw [← hlen, ← List.getLast?_eq_getElem?, uprogDec, List.getLast?_concat]

/-- Settles O44: every index is that of a word in its round, or of one of the words around the rounds. -/
theorem microProgramsListTheRoundsInOrder : Obligations.MicroProgramsListTheRoundsInOrder := by
  intro nr hlo hhi
  have hark : ∀ {r}, r ≤ nr → some (arkWord r) = some (0x20 ||| BitVec.ofNat 8 r) := fun hr =>
    congrArg some (arkWord_eq (by omega))
  refine ⟨length_uprogEnc hlo, rfl, fun r hr hlt => ?encRounds, ?encSb, ?encSr, ?encArk,
    length_uprogDec hlo, hark le_rfl, rfl, rfl, fun j hj hlt => ?decRounds, getElem?_uprogDec_last hlo⟩
  case encRounds =>
    have word := fun {i} (k : Fin 4) (hi : i + 3 = 4 * r + k.val) => getElem?_uprogEnc_round hr hlt k.isLt hi
    exact ⟨word 0 (by omega), word 1 (by omega), word 2 (by omega), (word 3 (by omega)).trans (hark hlt.le)⟩
  case encSb => exact getElem?_uprogEnc_last (j := 0) hlo (by omega)
  case encSr => exact getElem?_uprogEnc_last (j := 1) hlo (by omega)
  case encArk => exact (getElem?_uprogEnc_last (j := 2) hlo (by omega)).trans (hark le_rfl)
  case decRounds =>
    have word := fun {i} (k : Fin 4) (hi : i + 1 = 4 * j + k.val) => getElem?_uprogDec_round hj hlt k.isLt hi
    exact ⟨(word 0 (by omega)).trans (hark (nr.sub_le j)), word 1 (by omega), word 2 (by omega), word 3 (by omega)⟩

end Sys2Proof.Machine
end

section
/-! What a whole micro-program computes (44_cipher_engine R99, R100): its words, performed one after another on the
State, are Cipher and InvCipher. -/

namespace Sys2Proof.Machine

/-- R96: the effect of a micro-op word on the State. -/
def applyWord (w : Vector Word 60) (m : Mat) (u : Byte) : Mat :=
  match decodeUop u with
  | .ok i => applyMicroOp w m i
  | .error _ => m

theorem applyWord_of_decode {w : Vector Word 60} {m : Mat} {u : Byte} {i : Instr} (h : decodeUop u = .ok i) :
    applyWord w m u = applyMicroOp w m i := by
  simp [applyWord, h]

@[simp] theorem applyWord_ark (w : Vector Word 60) (m : Mat) {rnd : Nat} (h : rnd ≤ 14) :
    applyWord w m (arkWord rnd) = addRoundKey w rnd m :=
  applyWord_of_decode (decodeUop_ark ⟨rnd, Nat.lt_succ_of_le h⟩)

@[simp] theorem applyWord_sb (w : Vector Word 60) (m : Mat) : applyWord w m 0x30#8 = subBytes m := rfl

@[simp] theorem applyWord_isb (w : Vector Word 60) (m : Mat) : applyWord w m 0x40#8 = invSubBytes m := rfl

@[simp] theorem applyWord_sr (w : Vector Word 60) (m : Mat) : applyWord w m 0x50#8 = shiftRows m := rfl

@[simp] theorem applyWord_isr (w : Vector Word 60) (m : Mat) : applyWord w m 0x60#8 = invShiftRows m := rfl

@[simp] theorem applyWord_mc (w : Vector Word 60) (m : Mat) : applyWord w m 0x70#8 = mixColumns m := rfl

@[simp] theorem applyWord_imc (w : Vector Word 60) (m : Mat) : applyWord w m 0x80#8 = invMixColumns m := rfl

theorem foldl_applyWord_encRound (w : Vector Word 60) (m : Mat) {rnd : Nat} (h : rnd ≤ 14) :
    (encRound rnd).foldl (applyWord w) m = cipherRound w rnd m := by
  simp [encRound, cipherRound, h]

theorem foldl_applyWord_decRound (w : Vector Word 60) (m : Mat) {rnd : Nat} (h : rnd ≤ 14) :
    (decRound rnd).foldl (applyWord w) m = invCipherRound w rnd m := by
  simp [decRound, invCipherRound, h]

/-- R94, R99: the encryption micro-program computes Cipher. -/
theorem storeMat_foldl_uprogEnc (w : Vector Word 60) (b : Vector Byte 16) {nr : Nat} (h : nr ≤ 14) :
    storeMat ((uprogEnc nr).foldl (applyWord w) (loadMat b)) = cipher w nr b := by
  have hrounds : ((List.range (nr - 1)).flatMap fun k => encRound (k + 1)).foldl (applyWord w)
      (addRoundKey w 0 (loadMat b)) = cipherRounds w nr (loadMat b) := by
    rw [List.foldl_flatMap]
    refine List.foldl_ext _ _ _ fun m k hk => foldl_applyWord_encRound w m ?_
    have := List.mem_range.mp hk
    omega
  simp [uprogEnc, cipher_eq, hrounds, h]

/-- R95, R100: the decryption micro-program computes InvCipher. -/
theorem storeMat_foldl_uprogDec (w : Vector Word 60) (b : Vector Byte 16) {nr : Nat} (h : nr ≤ 14) :
    storeMat ((uprogDec nr).foldl (applyWord w) (loadMat b)) = invCipher w nr b := by
  have hrounds : ∀ m, ((List.range (nr - 1)).flatMap fun k => decRound (nr - 1 - k)).foldl (applyWord w) m =
      invCipherRounds w nr m := fun m => by
    rw [List.foldl_flatMap]
    exact List.foldl_ext _ _ _ fun m k _ => foldl_applyWord_decRound w m (by omega)
  simp [uprogDec, invCipher_eq, hrounds, h]

end Sys2Proof.Machine
end

section
/-! The run of an accepted ENCRYPT or DECRYPT (44_cipher_engine R96, R97): under every interleaving, S is what the
words of the micro-program before UPC have made of the block. -/

namespace Sys2Proof.Machine

/-! Runs of a command that no reset cuts short. -/

/-- R53: what engine turns and the host's transactions keep while a command runs, every step of it keeps. -/
theorem step_keeps_of_busy {P : State → Prop} (hnr : ∀ {s}, P s → NoReset s.sched)
    (hsched : ∀ {s} {ts : List Turn}, P s → NoReset ts → P { s with sched := ts })
    (hhost : ∀ {s t}, P s → SameRun s t → P t)
    (hengine : ∀ {s t}, P s → s.phase ≠ .idle → engineTurn s = .next t → P t)
    {s t : State} (h : P s) (hb : s.phase ≠ .idle) (he : step s = .next t) : P t := by
  rcases step_next he with ⟨-, ht⟩ | ⟨rest, hs, ht⟩ | ⟨p, rest, hs, ht⟩
  · exact hengine h hb ht
  · have htail : NoReset (.engine :: rest) := hs ▸ hnr h
    exact hengine (hsched h htail.tail) hb ht
  · have htail : NoReset (.edge p :: rest) := hs ▸ hnr h
    exact hhost (hsched h htail.tail) (edgeTurn_sameRun_of_busy hb (htail p List.mem_cons_self) ht)

/-- What every step of a running command keeps, every state of its run to the first idle one still has. -/
theorem FirstIdle.induction_of_le {P : State → Prop}
    (hstep : ∀ {s t : State}, P s → s.phase ≠ .idle → step s = .next t → P t) {n m : Nat} {s u v : State}
    (h : FirstIdle n s u) (hs : P s) (hm : m ≤ n) (hv : RunsTo m s v) : P v := by
  obtain ⟨-, -, hbusy⟩ := h
  induction m generalizing n s with
  | zero => exact runsTo_zero_iff.mp hv ▸ hs
  | succ m ih =>
    obtain ⟨t, ht, hrest⟩ := runsTo_succ_iff.mp hv
    have hp := hbusy 0 s (by omega) (runsTo_zero_iff.mpr rfl)
    exact ih (n := n - 1) (hstep hs hp ht) (by omega) hrest fun k x hk hx =>
      hbusy (k + 1) x (by omega) (runsTo_succ ht hx)

/-! The run. -/

/-- R96, R149: between acceptance and completion, S is what the words before UPC have made of the block, and OUT holds
nothing. -/
structure Ciphering (ph : Phase) (ks : KeySize) (w : Vector Word 60) (b : Vector Byte 16) (s : State) : Prop where
  phase : s.phase = ph
  upc : s.upc.toNat < ks.programLen
  transformed : s.S = ((uprog ph ks.nr).take s.upc.toNat).foldl (applyWord w) (loadMat b)
  outValid : s.outValid = false
  out : s.out = Vector.replicate 16 0x00

/-- R97: at completion OUT is what the whole micro-program makes of the block. -/
structure Ciphered (ph : Phase) (ks : KeySize) (w : Vector Word 60) (b : Vector Byte 16) (s : State) : Prop where
  phase : s.phase = .idle
  outValid : s.outValid = true
  out : s.out = storeMat ((uprog ph ks.nr).foldl (applyWord w) (loadMat b))

/-- What every step of an accepted ENCRYPT or DECRYPT of block `b` keeps. -/
structure CipherRun (ph : Phase) (ks : KeySize) (w : Vector Word 60) (b : Vector Byte 16) (s : State) : Prop where
  noReset : NoReset s.sched
  keySize : KeySize.ofCode s.ksz = some ks
  store : s.W = w
  progress : Ciphering ph ks w b s ∨ Ciphered ph ks w b s

/-- R105, R106: an accepted ENCRYPT or DECRYPT loads the block and starts at the first micro-op. -/
theorem commandCipher_of_accepted (ph : Phase) {s : State} (hp : s.phase = .idle) (hk : s.keyReady = true)
    (hn : s.dcnt.toNat = 16) : commandCipher ph s = report .ok 0x00 (consumeBlock (startCipher ph s)) := by
  simp [commandCipher, busy_eq_false.mpr hp, hk, hn]

theorem cipherRun_of_accepted (ph : Phase) {ks : KeySize} {s : State} (hp : s.phase = .idle) (hk : s.keyReady = true)
    (hn : s.dcnt.toNat = 16) (hks : KeySize.ofCode s.ksz = some ks) (hs : NoReset s.sched) :
    CipherRun ph ks s.W s.dbuf (commandCipher ph s) := by
  have hb := ks.bounds
  rw [commandCipher_of_accepted ph hp hk hn]
  exact
    { noReset := hs
      keySize := hks
      store := rfl
      progress := .inl
        { phase := rfl
          upc := show (0#6).toNat < ks.programLen by simp; omega
          transformed := rfl
          outValid := rfl
          out := rfl } }

theorem length_uprog {ph : Phase} (hph : ph = .enc ∨ ph = .dec) (ks : KeySize) :
    (uprog ph ks.nr).length = ks.programLen := by
  have hb := ks.bounds
  rcases hph with rfl | rfl
  · exact length_uprogEnc (by omega)
  · exact length_uprogDec (by omega)

/-- Every word of a micro-program is a round micro-operation. -/
theorem exists_uprog_word {ph : Phase} (hph : ph = .enc ∨ ph = .dec) {ks : KeySize} {n : Nat}
    (h : n < ks.programLen) : ∃ u i, (uprog ph ks.nr)[n]? = some u ∧ decodeUop u = .ok i ∧ isRoundOp i = true := by
  obtain ⟨u, hu⟩ : ∃ u, (uprog ph ks.nr)[n]? = some u :=
    ⟨_, List.getElem?_eq_getElem (h.trans_eq (length_uprog hph ks).symm)⟩
  have hmem : u ∈ uprog ph ks.nr := List.mem_of_getElem? hu
  obtain ⟨i, hd, hi⟩ := decodeUop_of_mem_uprog (hph.imp (fun e => by rwa [e] at hmem) fun e => by rwa [e] at hmem)
  exact ⟨u, i, hu, hd, hi⟩

namespace CipherRun

variable {ph : Phase} {ks : KeySize} {w : Vector Word 60} {b : Vector Byte 16} {s t : State}

theorem withSched (h : CipherRun ph ks w b s) {ts : List Turn} (hts : NoReset ts) :
    CipherRun ph ks w b { s with sched := ts } :=
  { h with noReset := hts, progress := h.progress.imp (fun hc => { hc with }) fun hc => { hc with } }

theorem sameRun (h : CipherRun ph ks w b s) (hst : SameRun s t) : CipherRun ph ks w b t := by
  rw [hst]
  exact { h with progress := h.progress.imp (fun hc => { hc with }) fun hc => { hc with } }

theorem ciphering_of_busy (h : CipherRun ph ks w b s) (hb : s.phase ≠ .idle) : Ciphering ph ks w b s :=
  h.progress.resolve_right fun hc => hb hc.phase

theorem ciphered_of_idle (h : CipherRun ph ks w b s) (hph : ph = .enc ∨ ph = .dec) (hp : s.phase = .idle) :
    Ciphered ph ks w b s :=
  h.progress.resolve_left fun hc => by
    rcases hph with rfl | rfl <;> cases hp.symm.trans hc.phase

/-- R96, R97: an engine turn performs the word at UPC, and completes with the last one. -/
theorem engineTurn (h : CipherRun ph ks w b s) (hph : ph = .enc ∨ ph = .dec) (hb : s.phase ≠ .idle)
    (he : engineTurn s = .next t) : CipherRun ph ks w b t := by
  have hc := h.ciphering_of_busy hb
  have hbd := ks.bounds
  have hlen := length_uprog hph ks
  obtain ⟨u, i, hu, hd, hi⟩ := exists_uprog_word hph hc.upc
  have hupc : (s.upc + 1).toNat = s.upc.toNat + 1 := toNat_add_one_of_lt (by have := hc.upc; omega)
  have hS : applyMicroOp s.W s.S i =
      ((uprog ph ks.nr).take (s.upc + 1).toNat).foldl (applyWord w) (loadMat b) := by
    rw [hupc, List.take_add_one, hu, Option.toList_some, List.foldl_concat, ← hc.transformed, h.store,
      applyWord_of_decode hd]
  rw [engineTurn_of_uprog h.keySize (hc.phase ▸ hu) hd] at he
  by_cases hl : s.upc.toNat + 1 = ks.programLen
  · rw [exec_roundOp_of_last hi h.keySize hl] at he
    cases he
    rw [List.take_of_length_le (by omega)] at hS
    exact { h with progress := .inr { phase := rfl, outValid := rfl, out := congrArg storeMat hS } }
  · rw [exec_roundOp_of_ne_last hi h.keySize hl] at he
    cases he
    exact { h with progress := .inl { hc with
      upc := show (s.upc + 1).toNat < ks.programLen by have := hc.upc; omega
      transformed := hS } }

/-- R53: whatever turn a step takes, the run goes on. -/
theorem step (h : CipherRun ph ks w b s) (hph : ph = .enc ∨ ph = .dec) (hb : s.phase ≠ .idle)
    (he : step s = .next t) : CipherRun ph ks w b t :=
  step_keeps_of_busy noReset (fun h => h.withSched) sameRun (fun h => h.engineTurn hph) h hb he

end CipherRun

/-- R97, R149: a cipher command that completes leaves in OUT what its micro-program makes of the block; until then OUT
holds nothing. -/
theorem commandCipher_firstIdle {ph : Phase} (hph : ph = .enc ∨ ph = .dec) {ks : KeySize} {s u : State} {n : Nat}
    (hp : s.phase = .idle) (hk : s.keyReady = true) (hn : s.dcnt.toNat = 16) (hks : KeySize.ofCode s.ksz = some ks)
    (hs : NoReset s.sched) (hidle : FirstIdle n (commandCipher ph s) u) :
    u.out = storeMat ((uprog ph ks.nr).foldl (applyWord s.W) (loadMat s.dbuf)) ∧ u.outValid = true ∧
      ∀ m v, m < n → RunsTo m (commandCipher ph s) v →
        v.outValid = false ∧ v.out = Vector.replicate 16 0x00 := by
  have ⟨hrun, huidle, hbusy⟩ := hidle
  have along : ∀ {m v}, m ≤ n → RunsTo m (commandCipher ph s) v → CipherRun ph ks s.W s.dbuf v := fun hm hv =>
    hidle.induction_of_le (fun h hb he => h.step hph hb he) (cipherRun_of_accepted ph hp hk hn hks hs) hm hv
  have hdone := (along le_rfl hrun).ciphered_of_idle hph huidle
  refine ⟨hdone.out, hdone.outValid, fun m v hm hv => ?_⟩
  have hc := (along hm.le hv).ciphering_of_busy (hbusy m v hm hv)
  exact ⟨hc.outValid, hc.out⟩

/-- Settles O59: the run of the encryption micro-program, which computes Cipher. -/
theorem aCompletedEncryptionLeavesTheCipherOfItsBlock :
    Obligations.ACompletedEncryptionLeavesTheCipherOfItsBlock := by
  intro ks s t u n hp hk hn hks hs hexec hidle
  cases hexec
  have hb := ks.bounds
  rw [← storeMat_foldl_uprogEnc s.W s.dbuf (by omega)]
  exact commandCipher_firstIdle (.inl rfl) hp hk hn hks hs hidle

/-- Settles O60: the run of the decryption micro-program, which computes InvCipher. -/
theorem aCompletedDecryptionLeavesTheInverseCipherOfItsBlock :
    Obligations.ACompletedDecryptionLeavesTheInverseCipherOfItsBlock := by
  intro ks s t u n hp hk hn hks hs hexec hidle
  cases hexec
  have hb := ks.bounds
  rw [← storeMat_foldl_uprogDec s.W s.dbuf (by omega)]
  exact commandCipher_firstIdle (.inr rfl) hp hk hn hks hs hidle

end Sys2Proof.Machine
end

section
/-! Host steps (45_host_interface R102, R103): what a clock edge performs by its ports, and that every transaction
completes in its step. -/

namespace Sys2Proof.Machine

/-! The transaction on the ports (R102). -/

theorem Pins.transaction_of_wrEn {p : Pins} (hw : p.wrEn = true) :
    p.transaction = some (busWord true p.addr p.wdata) := if_pos hw

theorem Pins.transaction_of_rdEn {p : Pins} (hw : p.wrEn = false) (hrd : p.rdEn = true) :
    p.transaction = some (busWord false p.addr p.wdata) := by
  simp [Pins.transaction, hw, hrd]

theorem Pins.transaction_eq_none {p : Pins} (hw : p.wrEn = false) (hrd : p.rdEn = false) : p.transaction = none := by
  simp [Pins.transaction, hw, hrd]

/-! A clock edge, case by case. -/

theorem edgeTurn_of_rst {p : Pins} (hr : p.rst = true) (s : State) :
    edgeTurn p s = .next (resetStep (latchPort p s)) := if_pos hr

theorem edgeTurn_of_no_transaction {p : Pins} (hr : p.rst = false) (ht : p.transaction = none) (s : State) :
    edgeTurn p s = .next (latchPort p s) := by
  simp [edgeTurn, hr, ht]

theorem edgeTurn_of_transaction {p : Pins} {t : BitVec 14} (hr : p.rst = false) (ht : p.transaction = some t)
    (s : State) : edgeTurn p s = exec (decodeBus t) (latchPort p s) := by
  simp [edgeTurn, hr, ht]

/-- Settles O7: the step takes the scheduled edge, whose turn is the transaction on the latched port. -/
theorem anEdgePerformsTheDecodedTransaction : Obligations.AnEdgePerformsTheDecodedTransaction :=
  fun _ _ _ _ hs hr ht => (step_cons hs).trans (edgeTurn_of_transaction hr ht _)

/-! What a transaction returns. -/

theorem isRead_decodeWrite (a : BitVec 5) (d : Byte) : isRead (decodeWrite a d) = false := by
  unfold decodeWrite decodeCmd
  split_ifs <;> rfl

/-- R103: only a read touches the port and the observation. -/
theorem exec_port_of_not_isRead {i : Instr} {s t : State} (hi : isRead i = false) (h : exec i s = .next t) :
    t.reads = s.reads ∧ t.rdata = s.rdata := by
  obtain ⟨-, -, -, -, -, -, -, hport, -⟩ := eachRegisterIsWrittenOnlyByItsRules i s t h
  exact hport hi

theorem exec_sched {i : Instr} {s t : State} (h : exec i s = .next t) : t.sched = s.sched := by
  obtain ⟨-, -, -, -, -, -, -, -, hsched⟩ := eachRegisterIsWrittenOnlyByItsRules i s t h
  exact hsched

/-- Settles O9: a decoded transaction always answers; a read responds with a register's value, a write leaves the port
and the observation alone. -/
theorem everyTransactionCompletesInItsStep : Obligations.EveryTransactionCompletesInItsStep := by
  intro s p rest t hs hr ht
  obtain ⟨s', he⟩ :=
    exec_decodeBus_next t { s with sched := rest, rdata := if p.rdEn then some 0x00 else none }
  have hstep := (anEdgePerformsTheDecodedTransaction s p rest t hs hr ht).trans he
  refine ⟨s', he, hstep, exec_sched he, fun hw => ?write, fun hw => ?read⟩
  case write =>
    rw [decodeBus_write hw] at he
    exact (exec_port_of_not_isRead (isRead_decodeWrite _ _) he).1
  case read =>
    obtain ⟨r, hresp⟩ := exec_of_isRead (isRead_decodeBus hw)
    cases (hresp _).symm.trans he
    exact ⟨_, rfl, rfl⟩

/-- Settles O10: the strobes choose the transaction, and a write leaves the 0x00 of rd_en on the port. -/
theorem bothStrobesWriteOnlyAndNeitherDoesNothing : Obligations.BothStrobesWriteOnlyAndNeitherDoesNothing := by
  refine fun s p rest hs hr => ⟨fun hw hrd => ?both, fun hw hrd => ?read, fun hw hrd => ?neither⟩
  case both =>
    obtain ⟨s', he, hstep, -⟩ :=
      everyTransactionCompletesInItsStep s p rest _ hs hr (Pins.transaction_of_wrEn hw)
    rw [decodeBus_busWord, if_pos rfl, if_pos hrd] at he
    obtain ⟨hreads, hrdata⟩ := exec_port_of_not_isRead (isRead_decodeWrite _ _) he
    exact ⟨s', he, hstep, hrdata, hreads⟩
  case read =>
    rw [anEdgePerformsTheDecodedTransaction s p rest _ hs hr (Pins.transaction_of_rdEn hw hrd), decodeBus_busWord,
      if_neg Bool.false_ne_true, if_pos hrd]
  case neither =>
    rw [step_cons hs, takeTurn, edgeTurn_of_no_transaction hr (Pins.transaction_eq_none hw hrd), latchPort, hrd,
      if_neg Bool.false_ne_true]

end Sys2Proof.Machine
end

section
/-! No step from a state with the invariant faults or is refused (45_host_interface R103, 60_exceptions R120): the
engine's turn finds a key size (R25) and an index in its range (R83, R96), and a clock edge needs nothing. -/

namespace Sys2Proof.Machine

/-- R103, R143: a clock edge answers a next state, whatever its ports carry. -/
theorem exists_edgeTurn_next (p : Pins) (s : State) : ∃ t, edgeTurn p s = .next t := by
  cases hr : p.rst with
  | true => exact ⟨_, edgeTurn_of_rst hr s⟩
  | false =>
    cases ht : p.transaction with
    | none => exact ⟨_, edgeTurn_of_no_transaction hr ht s⟩
    | some w => rw [edgeTurn_of_transaction hr ht]; exact exec_decodeBus_next w _

/-- R96, R97: with a key size, a round micro-operation either goes on or completes. -/
theorem exists_exec_roundOp_next {i : Instr} (hi : isRoundOp i = true) {s : State} {ks : KeySize}
    (hk : KeySize.ofCode s.ksz = some ks) : ∃ t, exec i s = .next t := by
  by_cases hl : s.upc.toNat + 1 = ks.programLen
  · exact ⟨_, exec_roundOp_of_last hi hk hl⟩
  · exact ⟨_, exec_roundOp_of_ne_last hi hk hl⟩

/-- R96: during ENC and DEC, UPC points at a word of the micro-program. -/
theorem exists_engineTurn_next_of_cipher {s : State} (h : Inv s) (hp : s.phase = .enc ∨ s.phase = .dec) {ks : KeySize}
    (hk : KeySize.ofCode s.ksz = some ks) : ∃ t, engineTurn s = .next t := by
  obtain ⟨-, -, hupc⟩ := h.ciphering hp
  obtain ⟨u, i, hu, hd, hi⟩ := exists_uprog_word hp (hupc ks hk)
  rw [engineTurn_of_uprog hk hu hd]
  exact exists_exec_roundOp_next hi hk

theorem exists_engineTurn_next {s : State} (h : Inv s) : ∃ t, engineTurn s = .next t := by
  obtain ⟨ks, hk⟩ := KeySize.ofCode_isSome h.keySize
  cases hp : s.phase with
  | idle => exact ⟨s, takeTurn_engine_idle hp⟩
  | keyexp =>
    obtain ⟨-, hrange⟩ := h.expanding hp
    obtain ⟨hlo, hhi, -⟩ := hrange ks hk
    rw [engineTurn_of_fetch (i := .kxw) (fetchMicroOp_of_keyexp hp) rfl]
    exact ⟨_, execKxw_of_range hk hlo hhi⟩
  | enc => exact exists_engineTurn_next_of_cipher h (.inl hp) hk
  | dec => exact exists_engineTurn_next_of_cipher h (.inr hp) hk

/-- Settles O54: the next turn is the engine's, which the invariant lets answer, or a clock edge, which always does. -/
theorem noStepFaultsOrRefuses : Obligations.NoStepFaultsOrRefuses := by
  intro s h
  match hs : s.sched with
  | [] => rw [step_nil hs]; exact exists_engineTurn_next h
  | .engine :: rest => rw [step_cons hs]; exact exists_engineTurn_next (h.withRest rest)
  | .edge p :: rest => rw [step_cons hs]; exact exists_edgeTurn_next p _

end Sys2Proof.Machine
end

section
/-! The commands (45_host_interface R104 to R107), each under the first of its checks that fails, and accepted. -/

namespace Sys2Proof.Machine

/-! KEYEXP (R104). -/

/-- R104: the word of a KEYEXP, from its fields. -/
theorem keyexpWord_eq (ksz : BitVec 2) :
    0x2001 ||| (ksz.setWidth 14 <<< 4) = busWord true 0x00 (cmdByte ksz 0b001) := by
  revert ksz; decide

theorem commandKeyexp_of_busy (c : BitVec 2) {s : State} (hp : s.phase ≠ .idle) :
    commandKeyexp c s = report .busy 0x00 s := if_pos (busy_eq_true.mpr hp)

theorem commandKeyexp_of_badKeysize {c : BitVec 2} {s : State} (hp : s.phase = .idle)
    (hc : KeySize.ofCode c = none) : commandKeyexp c s = report .badKeysize 0x00 (consumeKey s) := by
  simp [commandKeyexp, busy_eq_false.mpr hp, hc]

theorem commandKeyexp_of_keyLen {c : BitVec 2} {ks : KeySize} {s : State} (hp : s.phase = .idle)
    (hc : KeySize.ofCode c = some ks) (hn : s.kcnt.toNat ≠ 4 * ks.nk) :
    commandKeyexp c s = report .keyLen (kcntByte s) (consumeKey s) := by
  simp [commandKeyexp, busy_eq_false.mpr hp, hc, hn]

/-- Settles O14: each outcome is the named operations of its case; accepted, the key columns are the words loaded. -/
theorem keyexpFollowsItsRule : Obligations.KeyexpFollowsItsRule := by
  refine fun c s => ⟨?word, fun hp => ?busy, fun hp hc => ?badKeysize, fun ks hp hc hn => ?keyLen,
    fun ks hp hc hn => ⟨loadKeyWords ks.nk s.kbuf s.W, ?accepted, fun i hi => ?columns⟩⟩
  case word => rw [keyexpWord_eq, decodeBus_busWord]; exact decodeCmd_keyexp c
  case busy => exact congrArg _ (commandKeyexp_of_busy c hp)
  case badKeysize => exact congrArg _ (commandKeyexp_of_badKeysize hp (KeySize.ofCode_eq_none.mpr hc))
  case keyLen => exact congrArg _ (commandKeyexp_of_keyLen hp hc hn)
  case accepted => exact congrArg _ (commandKeyexp_of_accepted hp hc hn)
  case columns => exact wordAt_loadKeyWords ks.nk s.kbuf s.W hi

/-! ENCRYPT and DECRYPT (R105, R106). -/

theorem commandCipher_of_busy (ph : Phase) {s : State} (hp : s.phase ≠ .idle) :
    commandCipher ph s = report .busy 0x00 s := if_pos (busy_eq_true.mpr hp)

theorem commandCipher_of_noKey (ph : Phase) {s : State} (hp : s.phase = .idle) (hk : s.keyReady = false) :
    commandCipher ph s = report .noKey 0x00 (consumeBlock s) := by
  simp [commandCipher, busy_eq_false.mpr hp, hk]

theorem commandCipher_of_blockLen (ph : Phase) {s : State} (hp : s.phase = .idle) (hk : s.keyReady = true)
    (hn : s.dcnt.toNat ≠ 16) : commandCipher ph s = report .blockLen (dcntByte s) (consumeBlock s) := by
  simp [commandCipher, busy_eq_false.mpr hp, hk, hn]

/-- R106: ENCRYPT and DECRYPT differ in the phase they start. -/
theorem exec_cipherCommand {i : Instr} {ph : Phase} (h : (i = .encrypt ∧ ph = .enc) ∨ (i = .decrypt ∧ ph = .dec))
    (s : State) : exec i s = .next (commandCipher ph s) := by
  obtain ⟨rfl, rfl⟩ | ⟨rfl, rfl⟩ := h
  · rfl
  · rfl

/-- Settles O15: each outcome is the named operations of its case; accepted, S is the block loaded. -/
theorem encryptAndDecryptFollowTheirRules : Obligations.EncryptAndDecryptFollowTheirRules := by
  refine ⟨decodeBus_wr .ctrl (cmdByte 0b00 0b010), decodeBus_wr .ctrl (cmdByte 0b00 0b011), fun i ph s hi => ?_⟩
  rw [exec_cipherCommand hi]
  refine ⟨fun hp => ?busy, fun hp hk => ?noKey, fun hp hk hn => ?blockLen,
    fun hp hk hn => ⟨loadMat s.dbuf, ?accepted, loadMat_get s.dbuf⟩⟩
  case busy => exact congrArg _ (commandCipher_of_busy ph hp)
  case noKey => exact congrArg _ (commandCipher_of_noKey ph hp hk)
  case blockLen => exact congrArg _ (commandCipher_of_blockLen ph hp hk hn)
  case accepted => exact congrArg _ (commandCipher_of_accepted ph hp hk hn)

/-! An illegal command byte (R107). -/

theorem commandIllegal_of_busy {s : State} (hp : s.phase ≠ .idle) : commandIllegal s = report .busy 0x00 s :=
  if_pos (busy_eq_true.mpr hp)

theorem commandIllegal_of_idle {s : State} (hp : s.phase = .idle) :
    commandIllegal s = report .illegalCmd 0x00 s := by
  simp [commandIllegal, busy_eq_false.mpr hp]

/-- Settles O16: a write to CTRL decodes by the command function, and either way only an outcome is reported. -/
theorem cmdIllegalFollowsItsRule : Obligations.CmdIllegalFollowsItsRule := by
  refine fun d s => ⟨fun hd => ?word, fun hp => ?busy, fun hp => ?idle⟩
  case word => exact (decodeBus_wr .ctrl d).trans (decodeCmd_of_not_mem hd)
  case busy => exact congrArg _ (commandIllegal_of_busy hp)
  case idle => exact congrArg _ (commandIllegal_of_idle hp)

end Sys2Proof.Machine
end

section
/-! The pushes (45_host_interface R108, R109). -/

namespace Sys2Proof.Machine

/-- R59: the data byte is the low end of a transaction word. -/
theorem busWord_eq_or_data (w : Bool) (a : BitVec 5) (d : Byte) :
    busWord w a d = busWord w a 0x00 ||| d.setWidth 14 := by
  have hd : d.setWidth 14 = busWord false 0x00 d := BitVec.setWidth_eq_append (by omega)
  rw [hd, busWord, busWord, busWord, BitVec.or_append, BitVec.or_append]
  simp

theorem decodeBus_keyinWord (d : Byte) : decodeBus (0x2400 ||| d.setWidth 14) = .wrKeyin d := by
  rw [show (0x2400 : BitVec 14) = busWord true 0x04 0x00 from rfl, ← busWord_eq_or_data]
  exact decodeBus_wr_keyin d

theorem decodeBus_dinWord (d : Byte) : decodeBus (0x2600 ||| d.setWidth 14) = .wrDin d := by
  rw [show (0x2600 : BitVec 14) = busWord true 0x06 0x00 from rfl, ← busWord_eq_or_data]
  exact decodeBus_wr_din d

/-- Settles O19: the push into the key buffer, at the count and with it. -/
theorem wrKeyinFollowsItsRule : Obligations.WrKeyinFollowsItsRule := fun d s =>
  ⟨decodeBus_keyinWord d, pushKey d s, rfl, rfl, pushKey_kcnt_toNat d s, fun i hi =>
    (byteAt_pushKey d s i).trans (if_congr (and_iff_left hi) rfl rfl)⟩

/-- Settles O20: the push into the block buffer, at the count and with it. -/
theorem wrDinFollowsItsRule : Obligations.WrDinFollowsItsRule := fun d s =>
  ⟨decodeBus_dinWord d, pushBlock d s, rfl, rfl, pushBlock_dcnt_toNat d s, fun i hi =>
    (byteAt_pushBlock d s i).trans (if_congr (and_iff_left hi) rfl rfl)⟩

end Sys2Proof.Machine
end

section
/-! The reads and the ignored accesses (45_host_interface R110 to R116). -/

namespace Sys2Proof.Machine

theorem err_eq_true {s : State} : err s = true ↔ s.errcode ≠ 0x00 := by simp [err]

/-- R28: the ERR bit and the two bits above KSZ. -/
theorem statusByte_err_and_reserved (s : State) :
    (statusByte s).getLsbD 3 = err s ∧ (statusByte s).extractLsb' 6 2 = 0b00 := by
  unfold statusByte
  generalize busy s = b, s.keyReady = k, s.outValid = o, err s = e, s.ksz = z
  revert b k o e z
  decide

/-- Settles O22: the byte returned is STATUS, whose fields are the flags and KSZ. -/
theorem readingStatusReturnsTheFlags : Obligations.ReadingStatusReturnsTheFlags := by
  refine ⟨decodeBus_rd_status, fun s => ⟨statusByte s, exec_decodeRead_addr .status s, ?_⟩⟩
  obtain ⟨hbusy, hkey, hout, hksz⟩ := statusByte_fields s
  obtain ⟨herr, hzero⟩ := statusByte_err_and_reserved s
  exact ⟨by rw [hbusy, busy_eq_true], hkey, hout, by rw [herr, err_eq_true], hksz, hzero⟩

/-- R115: the word of a read of byte `j` of the output block, from its fields. -/
theorem doutWord_eq (j : BitVec 4) : 0x1000 ||| (j.setWidth 14 <<< 8) = busWord false (0b1#1 ++ j) 0x00 := by
  revert j; decide

theorem decodeBus_doutWord (j : BitVec 4) : decodeBus (0x1000 ||| (j.setWidth 14 <<< 8)) = .rdDout j := by
  rw [doutWord_eq, decodeBus_busWord]
  exact decodeRead_dout j

/-- R115: `j` is always within OUT. -/
theorem exec_rdDout (j : BitVec 4) (s : State) :
    exec (.rdDout j) s = .next (respond (s.out[j.toNat]'j.isLt) s) := by
  rw [← byteAt_of_lt s.out j.isLt]
  rfl

/-- Settles O23: each word is the read at its register's address, which responds with the register's value. -/
theorem readingARegisterReturnsItsValue : Obligations.ReadingARegisterReturnsItsValue :=
  ⟨decodeBus_rd .errcode, decodeBus_rd .errinfo, decodeBus_rd .kcnt, decodeBus_rd .dcnt, decodeBus_doutWord, fun s =>
    ⟨exec_decodeRead_addr .errcode s, exec_decodeRead_addr .errinfo s, exec_decodeRead_addr .kcnt s,
      exec_decodeRead_addr .dcnt s, fun j => exec_rdDout j s⟩⟩

/-- R36: the addresses of the ignored reads, as numbers. -/
theorem readIgnored_iff {a : BitVec 5} :
    readIgnored a = true ↔ a.toNat = 0 ∨ a.toNat = 4 ∨ a.toNat = 6 ∨ (8 ≤ a.toNat ∧ a.toNat ≤ 15) := by
  simp [readIgnored, BitVec.toNat_eq, or_assoc]

/-- Settles O24: the two directions of an ignored access, and the decoder's last row at the addresses of R36. -/
theorem ignoredAccessesDoNothing : Obligations.IgnoredAccessesDoNothing := by
  refine ⟨fun w a d s => ?access, fun a ha => ?read, fun a d hctrl hkeyin hdin => ?write⟩
  case access =>
    cases w with
    | true => rfl
    | false => rfl
  case read => exact decodeRead_ignored (readIgnored_iff.mpr ha)
  case write =>
    have hne : ∀ b : BitVec 5, a.toNat ≠ b.toNat → a ≠ b := fun _ h e => h (congrArg BitVec.toNat e)
    exact decodeWrite_ignored (writeIgnored_iff.mpr ⟨hne 0x00 hctrl, hne 0x04 hkeyin, hne 0x06 hdin⟩) d

end Sys2Proof.Machine
end

section
/-! The outcomes of CTRL writes (60_exceptions R121 to R131): a busy engine refuses every one; past that check a command
reports the first error that applies and consumes the buffer it reads. -/

namespace Sys2Proof.Machine

/-! While busy (R125). -/

/-- R125: a busy engine refuses every command, before any other check. -/
theorem exec_command_of_busy {i : Instr} (hi : isCommand i = true) {s : State} (hp : s.phase ≠ .idle) :
    exec i s = .next (report .busy 0x00 s) := by
  cases i with
  | keyexp c => exact congrArg _ (commandKeyexp_of_busy c hp)
  | encrypt => exact congrArg _ (commandCipher_of_busy .enc hp)
  | decrypt => exact congrArg _ (commandCipher_of_busy .dec hp)
  | cmdIllegal d => exact congrArg _ (commandIllegal_of_busy hp)
  | _ => cases hi

theorem isCommand_decodeCmd (d : Byte) : isCommand (decodeCmd d) = true := by
  unfold decodeCmd
  split_ifs <;> rfl

/-- Settles O48: a CTRL write is a command, and every transaction writes only what a running command does not use. -/
theorem noHostStepDisturbsARunningCommand : Obligations.NoHostStepDisturbsARunningCommand := by
  refine ⟨fun d s hp => exec_command_of_busy (isCommand_decodeCmd d) hp, fun w s hp => ?_⟩
  obtain ⟨t, ht⟩ := exec_decodeBus_next w s
  have hrun : SameRun s t := exec_sameRun_of_busy hp (decodeBus_format w) ht
  refine ⟨t, ht, ?_⟩
  rw [hrun]
  exact ⟨rfl, rfl, rfl, rfl, rfl, rfl, rfl, rfl, rfl⟩

/-! Past the BUSY check: the code, the count reported with it, and the buffer consumed. -/

/-- R124: the ERRINFO that goes with each code. -/
def ErrCode.info (s : State) : ErrCode → Byte
  | .keyLen => kcntByte s
  | .blockLen => dcntByte s
  | .ok => 0x00
  | .busy => 0x00
  | .illegalCmd => 0x00
  | .badKeysize => 0x00
  | .noKey => 0x00

theorem ErrCode.info_eq_ite (code : ErrCode) (s : State) :
    code.info s = if code.byte = 0x04 then kcntByte s else if code.byte = 0x05 then dcntByte s else 0x00 := by
  cases code <;> rfl

/-- R131: the code a KEYEXP reports past the BUSY check. -/
def keyexpCode (c : BitVec 2) (s : State) : ErrCode :=
  match KeySize.ofCode c with
  | none => .badKeysize
  | some ks => if s.kcnt.toNat ≠ 4 * ks.nk then .keyLen else .ok

/-- R131: the code an ENCRYPT or DECRYPT reports past the BUSY check. -/
def cipherCode (s : State) : ErrCode :=
  if s.keyReady = false then .noKey else if s.dcnt.toNat ≠ 16 then .blockLen else .ok

/-- R122: past the BUSY check a KEYEXP reports its code and consumes the key buffer, accepted or refused. -/
theorem exists_commandKeyexp_of_idle (c : BitVec 2) {s : State} (hp : s.phase = .idle) :
    ∃ u, commandKeyexp c s = report (keyexpCode c s) ((keyexpCode c s).info s) (consumeKey u) := by
  unfold keyexpCode
  cases hc : KeySize.ofCode c with
  | none => exact ⟨s, commandKeyexp_of_badKeysize hp hc⟩
  | some ks =>
    dsimp only
    split_ifs with hn
    · exact ⟨s, commandKeyexp_of_keyLen hp hc hn⟩
    · exact ⟨startExpansion c ks.nk s, commandKeyexp_of_accepted hp hc (not_not.mp hn)⟩

/-- R122: past the BUSY check an ENCRYPT or DECRYPT reports its code and consumes the block buffer, accepted or
refused. -/
theorem exists_commandCipher_of_idle (ph : Phase) {s : State} (hp : s.phase = .idle) :
    ∃ u, commandCipher ph s = report (cipherCode s) ((cipherCode s).info s) (consumeBlock u) := by
  unfold cipherCode
  split_ifs with hk hn
  · exact ⟨s, commandCipher_of_noKey ph hp hk⟩
  · exact ⟨s, commandCipher_of_blockLen ph hp (Bool.eq_true_of_not_eq_false hk) hn⟩
  · exact ⟨startCipher ph s, commandCipher_of_accepted ph hp (Bool.eq_true_of_not_eq_false hk) (not_not.mp hn)⟩

/-! What a command consumes (R122). -/

theorem commandKeyexp_consumes (c : BitVec 2) {s : State} (hp : s.phase = .idle) :
    (∀ i, byteAt (commandKeyexp c s).kbuf i = 0x00) ∧ (commandKeyexp c s).kcnt = 0 ∧
      (commandKeyexp c s).keyReady = false ∧
      ((commandKeyexp c s).errcode = 0x04 → (commandKeyexp c s).errinfo = kcntByte s) := by
  obtain ⟨u, e⟩ := exists_commandKeyexp_of_idle c hp
  rw [e]
  refine ⟨byteAt_zeros 32, rfl, rfl, fun h => ?_⟩
  rw [report_errinfo, ErrCode.byte_eq_keyLen h]
  rfl

theorem commandCipher_consumes (ph : Phase) {s : State} (hp : s.phase = .idle) :
    (∀ i, byteAt (commandCipher ph s).dbuf i = 0x00) ∧ (commandCipher ph s).dcnt = 0 ∧
      (∀ i, byteAt (commandCipher ph s).out i = 0x00) ∧ (commandCipher ph s).outValid = false ∧
      ((commandCipher ph s).errcode = 0x05 → (commandCipher ph s).errinfo = dcntByte s) := by
  obtain ⟨u, e⟩ := exists_commandCipher_of_idle ph hp
  rw [e]
  refine ⟨byteAt_zeros 16, rfl, byteAt_zeros 16, rfl, fun h => ?_⟩
  rw [report_errinfo, ErrCode.byte_eq_blockLen h]
  rfl

/-- R131: past the BUSY check a KEYEXP reports neither BUSY nor ILLEGAL_CMD. -/
theorem commandKeyexp_errcode_ne (c : BitVec 2) {s : State} (hp : s.phase = .idle) :
    ¬((commandKeyexp c s).errcode = 0x01 ∨ (commandKeyexp c s).errcode = 0x02) := by
  obtain ⟨u, e⟩ := exists_commandKeyexp_of_idle c hp
  rw [e, report_errcode, keyexpCode]
  split
  · decide
  · split_ifs <;> decide

/-- R131: past the BUSY check an ENCRYPT or DECRYPT reports neither BUSY nor ILLEGAL_CMD. -/
theorem commandCipher_errcode_ne (ph : Phase) {s : State} (hp : s.phase = .idle) :
    ¬((commandCipher ph s).errcode = 0x01 ∨ (commandCipher ph s).errcode = 0x02) := by
  obtain ⟨u, e⟩ := exists_commandCipher_of_idle ph hp
  rw [e, report_errcode, cipherCode]
  split_ifs <;> decide

/-- R122: a command refused with BUSY or ILLEGAL_CMD writes its outcome only. -/
theorem exec_command_frame_of_unread {i : Instr} {s t : State} (hi : isCommand i = true) (h : exec i s = .next t)
    (hcode : t.errcode = 0x01 ∨ t.errcode = 0x02) : t = { s with errcode := t.errcode, errinfo := t.errinfo } := by
  by_cases hp : s.phase = .idle
  · cases i with
    | keyexp c => cases h; exact absurd hcode (commandKeyexp_errcode_ne c hp)
    | encrypt => cases h; exact absurd hcode (commandCipher_errcode_ne .enc hp)
    | decrypt => cases h; exact absurd hcode (commandCipher_errcode_ne .dec hp)
    | cmdIllegal d => cases h; exact commandIllegal_frame s
    | _ => cases hi
  · cases (exec_command_of_busy hi hp).symm.trans h
    rfl

/-- Settles O18: what each command consumes and its frame; a refusal that reads no buffer writes its outcome only. -/
theorem commandsConsumeTheBufferTheyRead : Obligations.CommandsConsumeTheBufferTheyRead := by
  refine fun s t => ⟨fun c hp h => ?keyexp, fun i hi hp h => ?cipher, fun i => exec_command_frame_of_unread⟩
  case keyexp =>
    cases h
    obtain ⟨hkbuf, hkcnt, hready, hinfo⟩ := commandKeyexp_consumes c hp
    refine ⟨fun i _ => hkbuf i, hkcnt, hready, ?_, ?_, ?_, ?_, hinfo⟩ <;> rw [commandKeyexp_frame]
  case cipher =>
    obtain ⟨ph, hph⟩ : ∃ ph, (i = .encrypt ∧ ph = Phase.enc) ∨ (i = .decrypt ∧ ph = Phase.dec) :=
      hi.elim (fun h => ⟨.enc, .inl ⟨h, rfl⟩⟩) fun h => ⟨.dec, .inr ⟨h, rfl⟩⟩
    cases (exec_cipherCommand hph s).symm.trans h
    obtain ⟨hdbuf, hdcnt, hout, hvalid, hinfo⟩ := commandCipher_consumes ph hp
    refine ⟨fun j _ => hdbuf j, hdcnt, fun j _ => hout j, hvalid, ?_, ?_, ?_, hinfo⟩ <;> rw [commandCipher_frame]

/-! Which code a CTRL write reports (R131). -/

theorem keyexpCode_byte {c : BitVec 2} {ks : KeySize} (hc : KeySize.ofCode c = some ks) (s : State) :
    (keyexpCode c s).byte = if s.kcnt ≠ BitVec.ofNat 6 (4 * ks.nk) then 0x04 else 0x00 := by
  have hcnt : s.kcnt = BitVec.ofNat 6 (4 * ks.nk) ↔ s.kcnt.toNat = 4 * ks.nk := by
    have hb := ks.bounds
    rw [BitVec.toNat_eq, BitVec.toNat_ofNat, Nat.mod_eq_of_lt (by omega)]
  simp only [keyexpCode, hc, ne_eq, hcnt]
  split_ifs <;> rfl

theorem cipherCode_byte (s : State) :
    (cipherCode s).byte = if s.keyReady = false then 0x06 else if s.dcnt ≠ 16 then 0x05 else 0x00 := by
  have hcnt : s.dcnt = 16 ↔ s.dcnt.toNat = 16 := BitVec.toNat_eq
  simp only [cipherCode, ne_eq, hcnt]
  split_ifs <;> rfl

/-- R121, R124: past the BUSY check a KEYEXP reports its code, with a count beside a length error. -/
theorem commandKeyexp_reports (c : BitVec 2) {s : State} (hp : s.phase = .idle) :
    (commandKeyexp c s).errcode = (keyexpCode c s).byte ∧
      (commandKeyexp c s).errinfo = if (commandKeyexp c s).errcode = 0x04 then kcntByte s
        else if (commandKeyexp c s).errcode = 0x05 then dcntByte s else 0x00 := by
  obtain ⟨u, e⟩ := exists_commandKeyexp_of_idle c hp
  rw [e]
  exact ⟨rfl, (keyexpCode c s).info_eq_ite s⟩

/-- R121, R124: past the BUSY check an ENCRYPT or DECRYPT reports its code, with a count beside a length error. -/
theorem commandCipher_reports (ph : Phase) {s : State} (hp : s.phase = .idle) :
    (commandCipher ph s).errcode = (cipherCode s).byte ∧
      (commandCipher ph s).errinfo = if (commandCipher ph s).errcode = 0x04 then kcntByte s
        else if (commandCipher ph s).errcode = 0x05 then dcntByte s else 0x00 := by
  obtain ⟨u, e⟩ := exists_commandCipher_of_idle ph hp
  rw [e]
  exact ⟨rfl, (cipherCode s).info_eq_ite s⟩

/-- Settles O17: a busy engine reports BUSY; else the byte's family decides whether it is illegal, and its command's
code is the first error that applies. -/
theorem everyCtrlWriteReportsTheFirstErrorThatApplies :
    Obligations.EveryCtrlWriteReportsTheFirstErrorThatApplies := by
  intro d s
  by_cases hp : s.phase = .idle
  case neg => exact ⟨_, exec_command_of_busy (isCommand_decodeCmd d) hp, (if_pos hp).symm, rfl⟩
  rw [if_neg (not_not.mpr hp)]
  obtain ⟨c, rfl, e⟩ | ⟨rfl, e⟩ | ⟨rfl, e⟩ | ⟨hd, e⟩ := decodeCmd_cases d
  case inl =>
    obtain ⟨hcode, hinfo⟩ := commandKeyexp_reports c hp
    refine ⟨_, congrArg (exec · s) e, hcode.trans ?_, hinfo⟩
    obtain rfl | rfl | rfl | rfl := (by decide : ∀ c : BitVec 2, c = 0b00 ∨ c = 0b01 ∨ c = 0b10 ∨ c = 0b11) c
    · exact keyexpCode_byte (ks := .k128) rfl s
    · exact keyexpCode_byte (ks := .k192) rfl s
    · exact keyexpCode_byte (ks := .k256) rfl s
    · rfl
  case inr.inl =>
    obtain ⟨hcode, hinfo⟩ := commandCipher_reports .enc hp
    exact ⟨_, congrArg (exec · s) e, hcode.trans (cipherCode_byte s), hinfo⟩
  case inr.inr.inl =>
    obtain ⟨hcode, hinfo⟩ := commandCipher_reports .dec hp
    exact ⟨_, congrArg (exec · s) e, hcode.trans (cipherCode_byte s), hinfo⟩
  case inr.inr.inr =>
    refine ⟨report .illegalCmd 0x00 s, ?_, (if_pos hd).symm, rfl⟩
    exact (congrArg (exec · s) e).trans (congrArg _ (commandIllegal_of_idle hp))

end Sys2Proof.Machine
end

section
/-! A CTRL write and the completing engine step in one cycle (60_exceptions R131, 70_reset_and_hazards R148). -/

namespace Sys2Proof.Machine

/-- R53: the first two turns of a schedule, one after the other. -/
theorem runsTo_two {t₁ t₂ : Turn} {rest : List Turn} {s u v : State}
    (h₁ : takeTurn t₁ { s with sched := t₂ :: rest } = .next u) (hu : u.sched = t₂ :: rest)
    (h₂ : takeTurn t₂ { u with sched := rest } = .next v) : RunsTo 2 { s with sched := t₁ :: t₂ :: rest } v :=
  runsTo_succ ((step_cons rfl).trans h₁) (runsTo_succ ((step_cons hu).trans h₂) rfl)

/-- R97: at the last place of a micro-program the engine's turn completes the command. -/
theorem exists_engineTurn_completeCipher {s : State} {ks : KeySize} (hp : s.phase = .enc ∨ s.phase = .dec)
    (hk : KeySize.ofCode s.ksz = some ks) (hl : s.upc.toNat + 1 = ks.programLen) :
    ∃ m, takeTurn .engine s = .next (completeCipher m s) := by
  obtain ⟨u, i, hu, hd, hi⟩ := exists_uprog_word hp (n := s.upc.toNat) (ks := ks) (by omega)
  exact ⟨_, (engineTurn_of_uprog hk hu hd).trans (exec_roundOp_of_last hi hk hl)⟩

/-- R106: the clock edge that carries a write of DECRYPT. -/
theorem takeTurn_decrypt (s : State) :
    takeTurn (.edge (Pins.ofWord 0x2003)) s = .next (commandCipher .dec { s with rdata := none }) :=
  takeTurn_write 0x00 0x03 s

/-- Settles O51: before the completion the engine is busy and refuses the write; after it, it is idle and accepts. -/
theorem aCommandAtCompletionIsRefusedOrAcceptedByOrder :
    Obligations.ACommandAtCompletionIsRefusedOrAcceptedByOrder := by
  intro s ks rest hp hk hl hready hcnt
  constructor
  case left =>
    have hbusy := (takeTurn_decrypt { s with sched := .engine :: rest }).trans
      (congrArg _ (commandCipher_of_busy .dec (by simp [hp])))
    obtain ⟨m, hm⟩ := exists_engineTurn_completeCipher
      (s := report .busy 0x00 { s with sched := rest, rdata := none }) (.inl hp) hk hl
    exact ⟨_, runsTo_two hbusy rfl hm, rfl, rfl, rfl, rfl, rfl, rfl⟩
  case right =>
    obtain ⟨m, hm⟩ := exists_engineTurn_completeCipher
      (s := { s with sched := .edge (Pins.ofWord 0x2003) :: rest }) (.inl hp) hk hl
    have haccepted := (takeTurn_decrypt { completeCipher m s with sched := rest }).trans
      (congrArg _ (commandCipher_of_accepted .dec rfl hready hcnt))
    exact ⟨_, runsTo_two hm rfl haccepted, rfl, rfl, rfl, rfl, rfl, rfl⟩

end Sys2Proof.Machine
end

section
/-! A reset edge (70_reset_and_hazards R143). -/

namespace Sys2Proof.Machine

/-- Settles O11: the step is the reset of the state whose port shows what the edge's rd_en gives it. -/
theorem aResetEdgeClearsEveryElement : Obligations.AResetEdgeClearsEveryElement :=
  fun _ _ _ hs hr => ⟨_, (step_cons hs).trans (edgeTurn_of_rst hr _), fun hrd => if_pos hrd, rfl⟩

end Sys2Proof.Machine
end

section
/-! The progress of a running command (42_key_schedule R83, 44_cipher_engine R96, 70_reset_and_hazards R154): the
engine's turns count its steps down to completion one by one, and no transaction changes the count. -/

namespace Sys2Proof.Machine

variable {ks : KeySize} {s t : State}

/-! What is left of a command, by the phase. -/

theorem stepsLeft_of_idle (hp : s.phase = .idle) : stepsLeft s = 0 := by
  unfold stepsLeft
  split
  · rfl
  · rw [hp]

theorem stepsLeft_of_keyexp (hk : KeySize.ofCode s.ksz = some ks) (hp : s.phase = .keyexp) :
    stepsLeft s = ks.scheduleLen - s.ki.toNat := by
  simp [stepsLeft, hk, hp]

theorem stepsLeft_of_cipher (hk : KeySize.ofCode s.ksz = some ks) (hp : s.phase = .enc ∨ s.phase = .dec) :
    stepsLeft s = ks.programLen - s.upc.toNat := by
  rcases hp with hp | hp
  · simp [stepsLeft, hk, hp]
  · simp [stepsLeft, hk, hp]

theorem SameRun.stepsLeft_eq (h : SameRun s t) : stepsLeft t = stepsLeft s := by rw [h]; rfl

theorem SameRun.phase_eq (h : SameRun s t) : t.phase = s.phase := by rw [h]

theorem SameRun.sched_eq (h : SameRun s t) : t.sched = s.sched := by rw [h]

/-! What the engine needs to go on: of the invariant, the key size and the ranges of KI and UPC. -/

/-- R83, R96: the counter of a running command is within the range of its key size. -/
structure InRange (ks : KeySize) (s : State) : Prop where
  keySize : KeySize.ofCode s.ksz = some ks
  expanding : s.phase = .keyexp → ks.nk ≤ s.ki.toNat ∧ s.ki.toNat < ks.scheduleLen
  ciphering : s.phase = .enc ∨ s.phase = .dec → s.upc.toNat < ks.programLen

theorem Inv.exists_inRange (h : Inv s) : ∃ ks, InRange ks s := by
  obtain ⟨ks, hk⟩ := KeySize.ofCode_isSome h.keySize
  refine ⟨ks, hk, fun hp => ?expanding, fun hp => ?ciphering⟩
  case expanding =>
    obtain ⟨-, hrange⟩ := h.expanding hp
    obtain ⟨hlo, hhi, -⟩ := hrange ks hk
    exact ⟨hlo, hhi⟩
  case ciphering =>
    obtain ⟨-, -, hupc⟩ := h.ciphering hp
    exact hupc ks hk

theorem inRange_of_idle (hk : KeySize.ofCode s.ksz = some ks) (hp : s.phase = .idle) : InRange ks s where
  keySize := hk
  expanding := fun he => by cases hp.symm.trans he
  ciphering := fun hc => by rcases hc with hc | hc <;> cases hp.symm.trans hc

/-- R83, R96: an engine step of a running command, after which the command is in its range again or complete. -/
structure OneNearer (ks : KeySize) (s t : State) : Prop where
  inRange : InRange ks t
  sched : t.sched = s.sched
  stepsLeft : stepsLeft t + 1 = stepsLeft s

namespace InRange

theorem withSched (h : InRange ks s) (ts : List Turn) : InRange ks { s with sched := ts } := { h with }

theorem sameRun (h : InRange ks s) (hst : SameRun s t) : InRange ks t := by
  rw [hst]
  exact { h with }

/-- R83, R84: KXW advances KI, and completes where KI was the last index. -/
theorem exists_engineTurn_of_keyexp (h : InRange ks s) (hp : s.phase = .keyexp) :
    ∃ t, engineTurn s = .next t ∧ OneNearer ks s t := by
  obtain ⟨hlo, hhi⟩ := h.expanding hp
  have hb := ks.bounds
  have hki : (s.ki + 1).toNat = s.ki.toNat + 1 := toNat_add_one_of_lt (by omega)
  have hleft := stepsLeft_of_keyexp h.keySize hp
  rw [engineTurn_of_fetch (i := .kxw) (fetchMicroOp_of_keyexp hp) rfl]
  refine ⟨_, execKxw_of_range h.keySize hlo hhi, ?_⟩
  split
  · next hlast =>
    exact
      { inRange := inRange_of_idle h.keySize rfl
        sched := rfl
        stepsLeft := by rw [stepsLeft_of_idle rfl]; omega }
  · next hmore =>
    exact
      { inRange :=
          { h with expanding := fun _ => show ks.nk ≤ (s.ki + 1).toNat ∧ (s.ki + 1).toNat < ks.scheduleLen by omega }
        sched := rfl
        stepsLeft := by
          have hnext := stepsLeft_of_keyexp (s := storeScheduleWord (kxwWord ks s) s) h.keySize hp
          rw [hnext, storeScheduleWord_ki]; omega }

/-- R96, R97: a round micro-operation advances UPC, and completes where UPC was at the last word. -/
theorem exists_engineTurn_of_cipher (h : InRange ks s) (hp : s.phase = .enc ∨ s.phase = .dec) :
    ∃ t, engineTurn s = .next t ∧ OneNearer ks s t := by
  have hlt := h.ciphering hp
  have hb := ks.bounds
  have hupc : (s.upc + 1).toNat = s.upc.toNat + 1 := toNat_add_one_of_lt (by omega)
  have hleft := stepsLeft_of_cipher h.keySize hp
  obtain ⟨u, i, hu, hd, hi⟩ := exists_uprog_word hp hlt
  rw [engineTurn_of_uprog h.keySize hu hd]
  by_cases hl : s.upc.toNat + 1 = ks.programLen
  · exact ⟨_, exec_roundOp_of_last hi h.keySize hl,
      { inRange := inRange_of_idle h.keySize rfl
        sched := rfl
        stepsLeft := by rw [stepsLeft_of_idle rfl]; omega }⟩
  · exact ⟨_, exec_roundOp_of_ne_last hi h.keySize hl,
      { inRange := { h with ciphering := fun _ => show (s.upc + 1).toNat < ks.programLen by omega }
        sched := rfl
        stepsLeft := by
          have hnext := stepsLeft_of_cipher (s := advance (applyMicroOp s.W s.S i) s) h.keySize hp
          rw [hnext, advance_upc]; omega }⟩

/-- R154: the engine's turn answers, one step nearer to completion. -/
theorem exists_engineTurn (h : InRange ks s) (hb : s.phase ≠ .idle) :
    ∃ t, engineTurn s = .next t ∧ OneNearer ks s t := by
  cases hp : s.phase with
  | idle => exact absurd hp hb
  | keyexp => exact h.exists_engineTurn_of_keyexp hp
  | enc => exact h.exists_engineTurn_of_cipher (.inl hp)
  | dec => exact h.exists_engineTurn_of_cipher (.inr hp)

theorem engineTurn (h : InRange ks s) (hb : s.phase ≠ .idle) (he : engineTurn s = .next t) : OneNearer ks s t := by
  obtain ⟨t', he', hnear⟩ := h.exists_engineTurn hb
  cases he.symm.trans he'
  exact hnear

end InRange

/-- Settles O55: an engine turn is one step nearer, a clock edge without reset leaves the running command alone. -/
theorem eachEngineStepBringsCompletionOneNearer : Obligations.EachEngineStepBringsCompletionOneNearer := by
  intro s t h hb he
  obtain ⟨ks, hr⟩ := h.exists_inRange
  refine ⟨fun hs => ?engine, fun p rest hs hrst => ?edge⟩
  case engine =>
    obtain ⟨rest, hrest⟩ : ∃ rest, s.sched = .engine :: rest ∨ (s.sched = [] ∧ rest = []) := by
      obtain hs | ⟨rest, hs⟩ := hs
      · exact ⟨[], .inr ⟨hs, rfl⟩⟩
      · exact ⟨rest, .inl hs⟩
    rw [step_of_engine_next hrest] at he
    exact ((hr.withSched rest).engineTurn hb he).stepsLeft
  case edge =>
    rw [step_cons hs] at he
    have hsame := edgeTurn_sameRun_of_busy (s := { s with sched := rest }) hb hrst he
    exact ⟨hsame.stepsLeft_eq, hsame.phase_eq⟩

end Sys2Proof.Machine
end

section
/-! Completion in the runs of `step` (70_reset_and_hazards R153, R154): each step uses up a turn of the schedule or an
engine step of the command, and the engine steps are used up one at a time. -/

namespace Sys2Proof.Machine

variable {ks : KeySize} {s t u : State}

theorem firstIdle_zero (hp : s.phase = .idle) : FirstIdle 0 s s :=
  ⟨rfl, hp, fun _ _ hm => absurd hm (Nat.not_lt_zero _)⟩

/-- A step of a busy engine comes before the steps to the first idle state. -/
theorem FirstIdle.succ {n : Nat} (hb : s.phase ≠ .idle) (hs : step s = .next t) (h : FirstIdle n t u) :
    FirstIdle (n + 1) s u := by
  obtain ⟨hrun, hidle, hbusy⟩ := h
  refine ⟨runsTo_succ hs hrun, hidle, fun m v hm hv => ?_⟩
  cases m with
  | zero => exact runsTo_zero_iff.mp hv ▸ hb
  | succ m =>
    obtain ⟨t', ht', hv'⟩ := runsTo_succ_iff.mp hv
    cases hs.symm.trans ht'
    exact hbusy m v (by omega) hv'

/-- R154: a step of a running command without reset, whichever turn it takes. -/
theorem InRange.exists_step (h : InRange ks s) (hb : s.phase ≠ .idle) (hnr : NoReset s.sched) :
    ∃ t, step s = .next t ∧ InRange ks t ∧ NoReset t.sched ∧ stepsLeft s ≤ stepsLeft t + 1 ∧
      t.sched.length + stepsLeft t < s.sched.length + stepsLeft s := by
  match hs : s.sched with
  | [] =>
    obtain ⟨t, he, hnear⟩ := h.exists_engineTurn hb
    have hleft := hnear.stepsLeft
    have hsched : t.sched = [] := hnear.sched.trans hs
    refine ⟨t, (step_nil hs).trans he, hnear.inRange, hsched ▸ hs ▸ hnr, by omega, ?_⟩
    rw [hsched]
    omega
  | .engine :: rest =>
    obtain ⟨t, he, hnear⟩ := (h.withSched rest).exists_engineTurn hb
    have hleft : stepsLeft t + 1 = stepsLeft s := hnear.stepsLeft
    have hsched : t.sched = rest := hnear.sched
    refine ⟨t, (step_cons hs).trans he, hnear.inRange, hsched ▸ (hs ▸ hnr).tail, by omega, ?_⟩
    rw [hsched, List.length_cons]
    omega
  | .edge p :: rest =>
    obtain ⟨t, he⟩ := exists_edgeTurn_next p { s with sched := rest }
    have hnr : NoReset (.edge p :: rest) := hs ▸ hnr
    have hsame := edgeTurn_sameRun_of_busy (s := { s with sched := rest }) hb (hnr p List.mem_cons_self) he
    have hleft : stepsLeft t = stepsLeft s := hsame.stepsLeft_eq
    have hsched : t.sched = rest := hsame.sched_eq
    refine ⟨t, (step_cons hs).trans he, (h.withSched rest).sameRun hsame, hsched ▸ hnr.tail, by omega, ?_⟩
    rw [hsched, List.length_cons]
    omega

/-- R153, R154: the engine is idle after at least the engine steps left, and at most these and the turns scheduled. -/
theorem InRange.exists_firstIdle (h : InRange ks s) (hnr : NoReset s.sched) :
    ∃ n t, stepsLeft s ≤ n ∧ n ≤ s.sched.length + stepsLeft s ∧ FirstIdle n s t := by
  induction hN : s.sched.length + stepsLeft s using Nat.strong_induction_on generalizing s with
  | _ N ih =>
    by_cases hp : s.phase = .idle
    · exact ⟨0, s, (stepsLeft_of_idle hp).le, Nat.zero_le N, firstIdle_zero hp⟩
    · obtain ⟨t, hstep, ht, htnr, hone, hless⟩ := h.exists_step hp hnr
      obtain ⟨n, u, hlo, hhi, hidle⟩ := ih _ (hN ▸ hless) ht htnr rfl
      exact ⟨n + 1, u, by omega, by omega, hidle.succ hp hstep⟩

/-- R153: with no host step to come, the engine is idle after exactly the engine steps left. -/
theorem InRange.exists_firstIdle_of_sched_nil (h : InRange ks s) (hs : s.sched = []) {n : Nat}
    (hleft : stepsLeft s = n) : ∃ t, FirstIdle n s t := by
  obtain ⟨k, t, hlo, hhi, hidle⟩ := h.exists_firstIdle (fun p hp => by rw [hs] at hp; cases hp)
  rw [hs, List.length_nil] at hhi
  obtain rfl : k = n := by omega
  exact ⟨t, hidle⟩

end Sys2Proof.Machine
end

section
/-! The step counts (70_reset_and_hazards R153): what acceptance leaves the engine to do. -/

namespace Sys2Proof.Machine

variable {ks : KeySize} {s : State}

/-- R83, R153: an accepted KEYEXP has the words from Nk on to compute. -/
theorem commandKeyexp_exists_firstIdle {c : BitVec 2} (hs : s.sched = []) (hp : s.phase = .idle)
    (hc : KeySize.ofCode c = some ks) (hn : s.kcnt.toNat = 4 * ks.nk) :
    ∃ u, FirstIdle (ks.scheduleLen - ks.nk) (commandKeyexp c s) u := by
  have hki := toNat_ofNat_nk ks
  have hb := ks.bounds
  rw [commandKeyexp_of_accepted hp hc hn]
  have hrange : InRange ks (report .ok 0x00 (consumeKey (startExpansion c ks.nk s))) :=
    { keySize := hc
      expanding := fun _ => ⟨hki.ge, hki.trans_lt (by omega)⟩
      ciphering := fun h => by rcases h with h | h <;> cases h }
  exact hrange.exists_firstIdle_of_sched_nil hs
    ((stepsLeft_of_keyexp hc rfl).trans (congrArg (ks.scheduleLen - ·) hki))

/-- R96, R153: an accepted ENCRYPT or DECRYPT has its whole micro-program to perform. -/
theorem commandCipher_exists_firstIdle {ph : Phase} (hph : ph = .enc ∨ ph = .dec) (hs : s.sched = [])
    (hp : s.phase = .idle) (hr : s.keyReady = true) (hn : s.dcnt.toNat = 16) (hk : KeySize.ofCode s.ksz = some ks) :
    ∃ u, FirstIdle ks.programLen (commandCipher ph s) u := by
  have hb := ks.bounds
  rw [commandCipher_of_accepted ph hp hr hn]
  have hrange : InRange ks (report .ok 0x00 (consumeBlock (startCipher ph s))) :=
    { keySize := hk
      expanding := fun h => by rcases hph with rfl | rfl <;> cases h
      ciphering := fun _ => show (0#6).toNat < ks.programLen by simp; omega }
  exact hrange.exists_firstIdle_of_sched_nil hs (stepsLeft_of_cipher hrange.keySize hph)

/-- Settles O57: the words to compute, and the length of the micro-program, for each key size. -/
theorem commandsTakeTheirStepCounts : Obligations.CommandsTakeTheirStepCounts := by
  constructor
  case left =>
    intro c s t n hs hp hsize hexec
    cases hexec
    obtain ⟨rfl, hn, rfl⟩ | ⟨rfl, hn, rfl⟩ | ⟨rfl, hn, rfl⟩ := hsize
    · exact commandKeyexp_exists_firstIdle (ks := .k128) hs hp rfl (by rw [hn]; rfl)
    · exact commandKeyexp_exists_firstIdle (ks := .k192) hs hp rfl (by rw [hn]; rfl)
    · exact commandKeyexp_exists_firstIdle (ks := .k256) hs hp rfl (by rw [hn]; rfl)
  case right =>
    intro i s t n hi hs hp hr hn hsize hexec
    obtain ⟨ph, hph, hcmd⟩ : ∃ ph, (ph = .enc ∨ ph = .dec) ∧ exec i s = .next (commandCipher ph s) := by
      obtain rfl | rfl := hi
      · exact ⟨.enc, .inl rfl, rfl⟩
      · exact ⟨.dec, .inr rfl, rfl⟩
    cases hexec.symm.trans hcmd
    have hn : s.dcnt.toNat = 16 := by rw [hn]; rfl
    obtain ⟨hk, rfl⟩ | ⟨hk, rfl⟩ | ⟨hk, rfl⟩ := hsize
    · exact commandCipher_exists_firstIdle (ks := .k128) hph hs hp hr hn (by rw [hk]; rfl)
    · exact commandCipher_exists_firstIdle (ks := .k192) hph hs hp hr hn (by rw [hk]; rfl)
    · exact commandCipher_exists_firstIdle (ks := .k256) hph hs hp hr hn (by rw [hk]; rfl)

end Sys2Proof.Machine
end

section
/-! Completion in fair executions (20_memory R53, 70_reset_and_hazards R154): while the command runs the engine has a
step enabled, so fairness gives it one, and the engine steps left are finitely many. -/

namespace Sys2Proof.Machine

theorem Inv.takeTurn {s t : State} (h : Inv s) {turn : Turn} (he : takeTurn turn s = .next t) : Inv t := by
  cases turn with
  | engine => exact h.engineTurn he
  | edge p => exact h.edgeTurn he

/-- R154: no turn but a reset adds to what is left of a running command. -/
theorem Inv.stepsLeft_le_of_takeTurn {s t : State} (h : Inv s) (hb : s.phase ≠ .idle) {turn : Turn}
    (hnr : ∀ p, turn = .edge p → p.rst = false) (he : Machine.takeTurn turn s = .next t) :
    stepsLeft t ≤ stepsLeft s := by
  cases turn with
  | engine =>
    obtain ⟨ks, hr⟩ := h.exists_inRange
    have hleft := (hr.engineTurn hb he).stepsLeft
    omega
  | edge p => exact (edgeTurn_sameRun_of_busy hb (hnr p rfl) he).stepsLeft_eq.le

namespace Execution

variable {e : Execution} (hadmitted : e.Admitted) (hnr : e.NoReset)
include hadmitted hnr

theorem inv_and_stepsLeft_le {n m : Nat} (hnm : n ≤ m) (h : Inv (e.state n))
    (hb : ∀ k, n ≤ k → (e.state k).phase ≠ .idle) :
    Inv (e.state m) ∧ stepsLeft (e.state m) ≤ stepsLeft (e.state n) := by
  induction m, hnm using Nat.le_induction with
  | base => exact ⟨h, le_rfl⟩
  | succ m hm ih =>
    obtain ⟨hinv, hle⟩ := ih
    obtain ⟨-, hturn⟩ := hadmitted m
    exact ⟨hinv.takeTurn hturn, (hinv.stepsLeft_le_of_takeTurn (hb m hm) (hnr m) hturn).trans hle⟩

/-- R53, R154: by induction on the engine steps left, each of which fairness brings. -/
theorem exists_idle (hfair : e.Fair) {n : Nat} (h : Inv (e.state n)) : ∃ m, n ≤ m ∧ (e.state m).phase = .idle := by
  induction hN : stepsLeft (e.state n) using Nat.strong_induction_on generalizing n with
  | _ N ih =>
    by_contra hnever
    have hb : ∀ k, n ≤ k → (e.state k).phase ≠ .idle := fun k hk hp => hnever ⟨k, hk, hp⟩
    obtain ⟨m, hm, hengine⟩ := hfair n fun k hk => turnEnabled_engine.mpr (hb k hk)
    obtain ⟨hinv, hle⟩ := inv_and_stepsLeft_le hadmitted hnr hm h hb
    obtain ⟨-, hturn⟩ := hadmitted m
    rw [hengine] at hturn
    obtain ⟨ks, hr⟩ := hinv.exists_inRange
    have hleft := (hr.engineTurn (hb m hm) hturn).stepsLeft
    obtain ⟨k, hk, hp⟩ := ih _ (by omega) (hinv.takeTurn hturn) rfl
    exact hnever ⟨k, by omega, hp⟩

end Execution

/-- Settles O56: finite schedules by the bound on the first idle state, fair executions by the engine steps left. -/
theorem everyRunningCommandCompletes : Obligations.EveryRunningCommandCompletes := by
  refine ⟨fun s h _ hnr => ?finite, fun e hadmitted hfair hnr n h => ?fair⟩
  case finite =>
    obtain ⟨ks, hr⟩ := h.exists_inRange
    obtain ⟨n, t, -, hhi, hidle⟩ := hr.exists_firstIdle hnr
    exact ⟨n, t, hhi, hidle⟩
  case fair => exact Execution.exists_idle hadmitted hnr hfair h

end Sys2Proof.Machine
end
